-- ==== Sys2Proof/Word.lean ====
section
/-! DEFINITION. The widths of spec/00_scope.md R9 and the request header of spec/30_encoding.md R57.
Nothing in this block is signed (R10); `+` on `Byte` is the spec's `+8`, addition modulo 256 (R11). -/

namespace Sys2Proof

/-- A wire byte, a TYPE, LENGTH or payload byte, a checksum, the index operand (R9). -/
abbrev Byte := BitVec 8

/-- The encoder's numeric operand: a raw 32-bit pattern, never interpreted (R9, R61). -/
abbrev Word := BitVec 32

/-- A request header REQ (R57). -/
abbrev Header := BitVec 48

end Sys2Proof
end

