-- ==== Sys2Proof/Config.lean ====
section
/-! DEFINITION. The implementation parameters (spec/00_scope.md R6-R8, spec/93_implementation_defined.md
I1, I2, I12, I16), the named constants of R8, and the one value the spec leaves open (R72). -/

namespace Sys2Proof

/-- The six named message types (R8, R53). The decoder never checks a TYPE against this list (R81). -/
inductive MsgType where
  | setCurrent | setConfig | getConfig | configResponse | setScale | currentSet
deriving DecidableEq, Repr

/-- The code of a named message type (R53). -/
def MsgType.code : MsgType → Byte
  | .setCurrent => 0x00
  | .setConfig => 0x01
  | .getConfig => 0x02
  | .configResponse => 0x03
  | .setScale => 0x04
  | .currentSet => 0x05

/-- SYNC (R8). -/
def syncByte : Byte := 0xAA

/-- CFG_RSP_TYPE (R8). -/
def cfgRspType : Byte := MsgType.configResponse.code

/-- The parameters fixed when the block is constructed; no operation writes them (R30, R115).
DESIGN CHOICE (log entry 1): the record is carried by State. -/
structure Config where
  /-- CAP, the payload capacity, 0..255 (R6). -/
  cap : Fin 256
  /-- RESET_ON_DELIVERY (R7). -/
  resetOnDelivery : Bool
  /-- CUR_SET_TYPE (R8, D9, I12; log entry 12). -/
  curSetType : Byte
  /-- MAX_DELIVERY, at most 2^32-1 (D26, I16; log entry 13). -/
  maxDelivery : Fin 4294967296
deriving DecidableEq, Repr

/-- The values for this hardware: CAP = 255, RESET_ON_DELIVERY = true, CUR_SET_TYPE = 5,
MAX_DELIVERY = 2^32-1 (R6, R7, R8, D26). -/
def Config.hardware : Config where
  cap := 255
  resetOnDelivery := true
  curSetType := MsgType.currentSet.code
  maxDelivery := 4294967295

/-- The registers that a rejected LENGTH byte may write or leave (R72). -/
inductive OverflowReg where
  | len | sum | cnt
deriving DecidableEq, Repr

/-- FREE VALUE (R72: "DEC_LEN, DEC_SUM and DEC_CNT may be written as in rule R71, or not"): whether the
k-th rejected LENGTH byte writes the register. No body: nothing can be proved of it (log entry 10). -/
opaque Config.overflowWrites : OverflowReg → Nat → Bool

end Sys2Proof
end

