-- ==== Sys2Proof/Syntax.lean ====
section
/-! DEFINITION. The five operations (spec/30_encoding.md R56, spec/opcode_table.json), the agents that
issue them (spec/00_scope.md R5), and a request as it is issued (R57, R59). -/

namespace Sys2Proof

/-- The operations of the block's interface, one per row of spec/opcode_table.json. -/
inductive Instr where
  /-- INGEST data (R67): deliver received bytes. -/
  | ingest (data : List Byte)
  /-- POLL (R85): take the ready Command. -/
  | poll
  /-- ENC_CONFIG_RESPONSE index, v (R92). -/
  | encConfigResponse (index : Byte) (v : Word)
  /-- ENC_CURRENT_SET v (R93). -/
  | encCurrentSet (v : Word)
  /-- RESET_DECODER (R87): discard any partial frame. -/
  | resetDecoder
deriving DecidableEq, Repr

/-- The two agents that issue operations (R5, R111). The third agent, the transmit sink, issues none. -/
inductive Agent where
  | receive | application
deriving DecidableEq, Repr

/-- The operation-to-agent assignment (R56, R111): a premise on the environment, not checked. -/
def Instr.agent : Instr → Agent
  | .ingest _ => .receive
  | .poll => .application
  | .encConfigResponse _ _ => .application
  | .encCurrentSet _ => .application
  | .resetDecoder => .receive

/-- One issued request: who issued it, its 48-bit header (R57), and the data bytes that follow an
INGEST header (R59). -/
structure Request where
  agent : Agent
  header : Header
  data : List Byte
deriving DecidableEq, Repr

end Sys2Proof
end

