-- ==== Sys2Proof/WellFormed.lean ====
section
/-! DEFINITION. Which operations the interface format can express (spec/30_encoding.md R58, R59, R67). -/

namespace Sys2Proof

/-- An INGEST delivers n bytes with n ≤ MAX_DELIVERY ≤ 2^32-1 (R67, D26); every other operand of every
operation is admitted whatever its value (R98). -/
def Instr.wf (c : Config) : Instr → Bool
  | .ingest data => decide (data.length ≤ c.maxDelivery.val)
  | .poll => true
  | .encConfigResponse _ _ => true
  | .encCurrentSet _ => true
  | .resetDecoder => true

end Sys2Proof
end

