-- ==== Sys2Proof/Decode.lean ====
section
/-! DEFINITION. Decoding and encoding of requests (spec/30_encoding.md R56-R59) and the opcode table's
match and mask rows (spec/opcode_table.json). -/

namespace Sys2Proof

/-- OP = REQ[2:0] (R57). -/
def reqOp (h : Header) : BitVec 3 := h.extractLsb' 0 3
/-- RSV = REQ[7:3] (R57). -/
def reqRsv (h : Header) : BitVec 5 := h.extractLsb' 3 5
/-- IDX = REQ[15:8] (R57). -/
def reqIdx (h : Header) : Byte := h.extractLsb' 8 8
/-- ARG = REQ[47:16] (R57). -/
def reqArg (h : Header) : Word := h.extractLsb' 16 32

/-- Why a request lies outside the interface format (R58, R59, R104). -/
inductive Reject where
  /-- OP is 5, 6 or 7. -/
  | reservedOp (op : BitVec 3)
  /-- RSV is not 0. -/
  | reservedBits (rsv : BitVec 5)
  /-- IDX is not 0 and OP is not ENC_CONFIG_RESPONSE. -/
  | strayIndex (idx : Byte)
  /-- ARG is not 0 and OP takes none. -/
  | strayArg (arg : Word)
  /-- The data bytes are not as many as the header says (R59; log entry 5). -/
  | dataLength (declared given : Nat)
  /-- An INGEST of more than MAX_DELIVERY bytes (I16; log entry 13). -/
  | deliveryTooLong (n : Nat)
deriving DecidableEq, Repr

/-- The admission check of R58, as the spec writes it. -/
def headerAdmitted (h : Header) : Bool :=
  decide (reqOp h ≤ 4) && decide (reqRsv h = 0)
    && (decide (reqOp h = 2) || decide (reqIdx h = 0))
    && (decide (reqOp h = 0) || decide (reqOp h = 2) || decide (reqOp h = 3) || decide (reqArg h = 0))

/-- The operation with no data, no index and no argument: the remaining checks of R58 and R59. -/
def decodePlain (i : Instr) (r : Request) : Except Reject Instr :=
  if reqIdx r.header ≠ 0 then .error (.strayIndex (reqIdx r.header))
  else if reqArg r.header ≠ 0 then .error (.strayArg (reqArg r.header))
  else if r.data ≠ [] then .error (.dataLength 0 r.data.length)
  else .ok i

/-- INGEST: IDX must be 0 and ARG bytes follow (R57, R59). -/
def decodeIngest (c : Config) (r : Request) : Except Reject Instr :=
  if reqIdx r.header ≠ 0 then .error (.strayIndex (reqIdx r.header))
  else if r.data.length ≠ (reqArg r.header).toNat then
    .error (.dataLength (reqArg r.header).toNat r.data.length)
  else if c.maxDelivery.val < r.data.length then .error (.deliveryTooLong r.data.length)
  else .ok (.ingest r.data)

/-- ENC_CONFIG_RESPONSE: IDX is the index, ARG the value (R57). -/
def decodeConfigResponse (r : Request) : Except Reject Instr :=
  if r.data ≠ [] then .error (.dataLength 0 r.data.length)
  else .ok (.encConfigResponse (reqIdx r.header) (reqArg r.header))

/-- ENC_CURRENT_SET: IDX must be 0, ARG is the value (R57). -/
def decodeCurrentSet (r : Request) : Except Reject Instr :=
  if reqIdx r.header ≠ 0 then .error (.strayIndex (reqIdx r.header))
  else if r.data ≠ [] then .error (.dataLength 0 r.data.length)
  else .ok (.encCurrentSet (reqArg r.header))

/-- The decoder of requests: total on every header and every data list, each rejection by name.
Where several checks of R58 fail together the one tested first names the refusal (log entry 7). -/
def decode (c : Config) (r : Request) : Except Reject Instr :=
  if reqRsv r.header ≠ 0 then .error (.reservedBits (reqRsv r.header))
  else match (reqOp r.header).toNat with
    | 0 => decodeIngest c r
    | 1 => decodePlain .poll r
    | 2 => decodeConfigResponse r
    | 3 => decodeCurrentSet r
    | 4 => decodePlain .resetDecoder r
    | _ => .error (.reservedOp (reqOp r.header))

/-- The operation code of an operation (R56). -/
def Instr.op : Instr → BitVec 3
  | .ingest _ => 0
  | .poll => 1
  | .encConfigResponse _ _ => 2
  | .encCurrentSet _ => 3
  | .resetDecoder => 4

/-- The IDX byte of an operation (R57). -/
def Instr.idx : Instr → Byte
  | .encConfigResponse index _ => index
  | .ingest _ => 0
  | .poll => 0
  | .encCurrentSet _ => 0
  | .resetDecoder => 0

/-- The ARG word of an operation (R57). -/
def Instr.arg : Instr → Word
  | .ingest data => BitVec.ofNat 32 data.length
  | .encConfigResponse _ v => v
  | .encCurrentSet v => v
  | .poll => 0
  | .resetDecoder => 0

/-- The data bytes that follow an operation's header (R57). -/
def Instr.data : Instr → List Byte
  | .ingest data => data
  | .poll => []
  | .encConfigResponse _ _ => []
  | .encCurrentSet _ => []
  | .resetDecoder => []

/-- A header from its fields: ARG, IDX, RSV = 0, OP, the most significant first (R57). -/
def packHeader (arg : Word) (idx : Byte) (op : BitVec 3) : Header :=
  arg ++ idx ++ (0 : BitVec 5) ++ op

/-- The request by which agent `a` issues the operation `i` (R57). -/
def encode (a : Agent) (i : Instr) : Request :=
  ⟨a, packHeader i.arg i.idx i.op, i.data⟩

/-- One row of spec/opcode_table.json: its mnemonic, and its match and mask over the header. -/
structure OpRow where
  mnemonic : String
  matchBits : Header
  mask : Header
deriving DecidableEq, Repr

/-- spec/opcode_table.json, its five rows as they stand there. -/
def opcodeTable : List OpRow :=
  [⟨"INGEST", 0x000000000000, 0x00000000FFFF⟩,
   ⟨"POLL", 0x000000000001, 0xFFFFFFFFFFFF⟩,
   ⟨"ENC_CONFIG_RESPONSE", 0x000000000002, 0x0000000000FF⟩,
   ⟨"ENC_CURRENT_SET", 0x000000000003, 0x00000000FFFF⟩,
   ⟨"RESET_DECODER", 0x000000000004, 0xFFFFFFFFFFFF⟩]

/-- The table's mnemonic of an operation. -/
def Instr.mnemonic : Instr → String
  | .ingest _ => "INGEST"
  | .poll => "POLL"
  | .encConfigResponse _ _ => "ENC_CONFIG_RESPONSE"
  | .encCurrentSet _ => "ENC_CURRENT_SET"
  | .resetDecoder => "RESET_DECODER"

/-- The rows of the opcode table a header matches. -/
def matchingRows (h : Header) : List OpRow :=
  opcodeTable.filter fun row => decide (h &&& row.mask = row.matchBits)

/-- n data bytes from a number, the first in its least significant bits. -/
def tableData (w : Nat) : Nat → List Byte
  | 0 => []
  | n + 1 => BitVec.ofNat 8 w :: tableData (w >>> 8) n

/-- The request whose bits are `w`, numbered as spec/opcode_table.json numbers them: the header in bits
47..0 (R57), then, for INGEST, as many data bytes as ARG says, bits at or above `nbits` being 0. -/
def tableRequest (nbits w : Nat) : Request :=
  let bits := w % 2 ^ nbits
  let h : Header := BitVec.ofNat 48 bits
  match (reqOp h).toNat with
  | 0 => ⟨.receive, h, tableData (bits >>> 48) (reqArg h).toNat⟩
  | 4 => ⟨.receive, h, []⟩
  | _ => ⟨.application, h, []⟩

/-- The operation this hardware's decoder reads from the request whose bits are `w`. -/
def decodeTableWord (nbits w : Nat) : Option Instr :=
  match decode Config.hardware (tableRequest nbits w) with
  | .ok i => some i
  | .error _ => none

end Sys2Proof
end

