-- ==== Sys2Proof/Machine/State.lean ====
section
/-! DEFINITION. The block's state (spec/10_state.md), its state after reset (R32, R115), and the reasons a
step can stop (spec/60_exceptions.md R100, R104). State is plain data. -/

namespace Sys2Proof.Machine

/-- DEC_STATE: the five positions in the frame grammar (R14, R16). Codes 5 to 7 cannot be formed (R64). -/
inductive DecState where
  | awaitingSync | readingType | readingLength | readingPayload | readingChecksum
deriving DecidableEq, Repr

/-- The decoder's registers (R16-R21). -/
structure Decoder where
  /-- DEC_STATE (R16). -/
  state : DecState
  /-- DEC_CNT, the payload fill counter (R17). -/
  cnt : Byte
  /-- DEC_SUM, the running checksum (R18). -/
  sum : Byte
  /-- DEC_TYPE (R19). -/
  type : Byte
  /-- DEC_LEN (R20). -/
  len : Byte
  /-- DEC_BUF[0..CAP-1] (R21, R36). -/
  buf : List Byte
deriving DecidableEq, Repr

/-- The ready slot (R22, R23). -/
structure Slot where
  /-- SLOT_TYPE (R22). -/
  type : Byte
  /-- SLOT_LEN (R22). -/
  len : Byte
  /-- SLOT_PAYLOAD[0..CAP-1] (R22, R36). -/
  payload : List Byte
  /-- SLOT_UNREAD (R23). -/
  unread : Bool
deriving DecidableEq, Repr

/-- A Command: type, length, payload (spec/00_scope.md, glossary). -/
structure Command where
  type : Byte
  length : Byte
  payload : List Byte
deriving DecidableEq, Repr

/-- The entries of the model's event history: the three error labels a model may record (R101), and the
model's own marks for an accepted and a taken Command (log entry 9). No operation reads them. -/
inductive Event where
  | desync
  | checksumMismatch
  | lengthOverflow
  | accepted (c : Command)
  | taken (c : Command)
deriving DecidableEq, Repr

/-- Everything the spec gives the block, and the model's own fields `requests`, `results`, `events` and
`freeIdx` (log entries 3, 8, 9, 10). -/
structure State where
  /-- CAP, RESET_ON_DELIVERY, CUR_SET_TYPE, MAX_DELIVERY (R30; log entry 1). -/
  cfg : Config
  /-- The decoder registers. -/
  dec : Decoder
  /-- The ready slot. -/
  slot : Slot
  /-- TXLOG: the frames handed to the transmit sink, oldest first (R29). -/
  txlog : List (List Byte)
  /-- The result records POLL returned, oldest first (R60; log entry 8). -/
  results : List (List Byte)
  /-- The requests issued and not yet taken, in the total order of R46 (log entry 3). -/
  requests : List Request
  /-- The event history (R101; log entry 9). -/
  events : List Event
  /-- The counter of free values used (log entry 10). -/
  freeIdx : Nat
deriving DecidableEq, Repr

/-- The block raises no exception, trap or fault, and no admitted operation can fail (R13, R100): the type
of faults has no constructor (log entry 15). -/
inductive Fault where
deriving DecidableEq, Repr

/-- Why a step is refused. -/
inductive Refusal where
  /-- Raised by `exec` for an operation without a meaning; no arm uses it in this model. Safe. -/
  | notModelled (mnemonic : String)
  /-- Raised by `step` for a request outside the interface format (R58, R104, I10). No register and no part
  of TXLOG changes, and the outcome ends the run, which is the mark R104 asks for. Safe. -/
  | inadmissible (why : Reject)
deriving DecidableEq, Repr

/-- The block just constructed with the parameters `c` (R32, R115): DEC_STATE = AwaitingSync,
SLOT_UNREAD = 0, TXLOG = []. DESIGN CHOICE (log entry 2): the registers R32 calls unspecified are 0. -/
def State.resetWith (c : Config) : State where
  cfg := c
  dec := { state := .awaitingSync, cnt := 0, sum := 0, type := 0, len := 0, buf := List.replicate c.cap.val 0 }
  slot := { type := 0, len := 0, payload := List.replicate c.cap.val 0, unread := false }
  txlog := []
  results := []
  requests := []
  events := []
  freeIdx := 0

/-- The machine right after reset: this hardware's parameters (R6, R7) and R32's values. -/
def State.reset : State := State.resetWith Config.hardware

end Sys2Proof.Machine
end

