-- ==== Sys2Proof/Machine/Flags.lean ====
section
/-! DEFINITION. The checksum (spec/00_scope.md R11, spec/30_encoding.md R52, R94), the comparison in
ReadingChecksum (spec/40_decoder.md R74), and the block's one status flag SLOT_UNREAD
(spec/10_state.md R23, R27). -/

namespace Sys2Proof.Machine

/-- sum8(xs) = (Σ xs[i]) mod 256 (R11). -/
def sum8 (xs : List Byte) : Byte := BitVec.ofNat 8 (xs.map BitVec.toNat).sum

/-- The running sum: DEC_SUM +8 b (R11, R18). -/
def addSum (sum b : Byte) : Byte := sum + b

/-- The comparison of R74; it leaves no stored flag (R27). -/
def checksumMatches (d : Decoder) (b : Byte) : Bool := decide (b = d.sum)

/-- SLOT_UNREAD <- 1 (R75). -/
def Slot.markUnread (sl : Slot) : Slot := { sl with unread := true }

/-- SLOT_UNREAD <- 0 (R85). -/
def Slot.markTaken (sl : Slot) : Slot := { sl with unread := false }

/-- The 3-bit code of DEC_STATE (R16). -/
def DecState.code : DecState → BitVec 3
  | .awaitingSync => 0
  | .readingType => 1
  | .readingLength => 2
  | .readingPayload => 3
  | .readingChecksum => 4

end Sys2Proof.Machine
end

