-- ==== Sys2Proof/Machine/Operands.lean ====
section
/-! DEFINITION. Operand forms and records: the four wire bytes of the 32-bit operand (spec/20_memory.md R40),
the frames of spec/30_encoding.md R50, R54, R55, the Command a slot or a decoder holds (spec/10_state.md
R22, R34), POLL's result record (R60) and the pseudo-operation INGEST_FRAME (R63). -/

namespace Sys2Proof.Machine

/-- v[7:0], v[15:8], v[23:16], v[31:24]: least significant byte first (R40, R61). -/
def valueBytes (v : Word) : List Byte :=
  [v.extractLsb' 0 8, v.extractLsb' 8 8, v.extractLsb' 16 8, v.extractLsb' 24 8]

/-- A transmitted frame: SYNC, the body from TYPE to the last value byte, and the body's sum8; no LENGTH
byte (R92-R94; 90_conflicts.md C1). -/
def txFrame (body : List Byte) : List Byte := [syncByte] ++ body ++ [sum8 body]

/-- The body of CONFIG_RESPONSE (R54, R92). -/
def configResponseBody (index : Byte) (v : Word) : List Byte := [cfgRspType, index] ++ valueBytes v

/-- The body of CURRENT_SET (R55, R93), with CUR_SET_TYPE of the configuration. -/
def currentSetBody (c : Config) (v : Word) : List Byte := [c.curSetType] ++ valueBytes v

/-- A received frame of type `t` and payload `p` (R50): SYNC TYPE LENGTH PAYLOAD CHECKSUM. -/
def rxFrame (t : Byte) (p : List Byte) : List Byte :=
  [syncByte, t, BitVec.ofNat 8 p.length] ++ p ++ [sum8 ([t, BitVec.ofNat 8 p.length] ++ p)]

/-- The pseudo-operation INGEST_FRAME t, p (R63). -/
def ingestFrame (t : Byte) (p : List Byte) : Instr := .ingest (rxFrame t p)

/-- (DEC_TYPE, DEC_LEN, DEC_BUF[0..DEC_LEN)): the Command an acceptance delivers (R75). -/
def Decoder.command (d : Decoder) : Command := ⟨d.type, d.len, d.buf.take d.len.toNat⟩

/-- (SLOT_TYPE, SLOT_LEN, SLOT_PAYLOAD[0..SLOT_LEN)): the observable Command (R22, R34). -/
def Slot.command (sl : Slot) : Command := ⟨sl.type, sl.len, sl.payload.take sl.len.toNat⟩

/-- The Command waiting in the slot, if SLOT_UNREAD = 1 (R85). -/
def Slot.ready (sl : Slot) : Option Command := if sl.unread then some sl.command else none

/-- POLL's result as bytes (R60): none is 00, some is 01 type length payload. -/
def pollRecord : Option Command → List Byte
  | none => [0x00]
  | some c => [0x01, c.type, c.length] ++ c.payload

end Sys2Proof.Machine
end

