-- ==== Sys2Proof/Machine/Ops.lean ====
section
/-! DEFINITION. The shared operations: the STEP transition of spec/40_decoder.md R68-R76, its one recovery
(spec/60_exceptions.md R109; the block has no exception entry and no return, R100, R109, R110), the per-call
reset (R67), the mailbox take (spec/41_handoff.md R85), Transmit (spec/42_encoder.md R95), and taking the
next request (spec/20_memory.md R46). -/

namespace Sys2Proof.Machine

/-- DEC_STATE <- AwaitingSync, and nothing else: the recovery from every protocol error (R109), the per-call
reset (R67) and RESET_DECODER (R87). -/
def Decoder.resync (d : Decoder) : Decoder := { d with state := .awaitingSync }

/-- Appends to the event history; no register changes (R101). -/
def State.record (e : Event) (s : State) : State := { s with events := s.events ++ [e] }

/-- R69: the byte in AwaitingSync. -/
def stepAwaitingSync (b : Byte) (s : State) : State :=
  if b = syncByte then { s with dec := { s.dec with sum := 0, state := .readingType } }
  else s.record .desync

/-- R70: the TYPE byte; no value is rejected. -/
def stepType (b : Byte) (s : State) : State :=
  { s with dec := { s.dec with type := b, sum := addSum s.dec.sum b, state := .readingLength } }

/-- R71: a LENGTH byte within CAP. -/
def takeLength (b : Byte) (d : Decoder) : Decoder :=
  { d with
    len := b
    sum := addSum d.sum b
    cnt := 0
    state := if b = 0 then .readingChecksum else .readingPayload }

/-- R72: a LENGTH byte above CAP. DEC_STATE <- AwaitingSync; DEC_LEN, DEC_SUM and DEC_CNT are each written as
in R71 or left, as the free value `Config.overflowWrites` says (log entry 10). -/
def rejectLength (b : Byte) (s : State) : State :=
  { s with
    dec := Decoder.resync { s.dec with
      len := if Config.overflowWrites .len s.freeIdx then b else s.dec.len
      sum := if Config.overflowWrites .sum s.freeIdx then addSum s.dec.sum b else s.dec.sum
      cnt := if Config.overflowWrites .cnt s.freeIdx then 0 else s.dec.cnt }
    events := s.events ++ [.lengthOverflow]
    freeIdx := s.freeIdx + 1 }

/-- R71 and R72: the LENGTH byte. -/
def stepLength (b : Byte) (s : State) : State :=
  if s.cfg.cap.val < b.toNat then rejectLength b s
  else { s with dec := takeLength b s.dec }

/-- R73: a payload byte, stored at DEC_CNT; the comparison uses the incremented DEC_CNT. -/
def storePayload (b : Byte) (d : Decoder) : Decoder :=
  { d with
    buf := d.buf.set d.cnt.toNat b
    sum := addSum d.sum b
    cnt := d.cnt + 1
    state := if d.cnt + 1 = d.len then .readingChecksum else .readingPayload }

/-- R73. -/
def stepPayload (b : Byte) (s : State) : State := { s with dec := storePayload b s.dec }

/-- The copy of R75: SLOT_TYPE, SLOT_LEN, SLOT_PAYLOAD[0..DEC_LEN) are written, the rest of SLOT_PAYLOAD keeps
its bytes (R36), and SLOT_UNREAD is set. -/
def Slot.latch (c : Command) (sl : Slot) : Slot :=
  Slot.markUnread { sl with
    type := c.type
    len := c.length
    payload := c.payload ++ sl.payload.drop c.payload.length }

/-- R75: the frame is accepted. -/
def acceptFrame (s : State) : State :=
  { s with
    dec := s.dec.resync
    slot := s.slot.latch s.dec.command
    events := s.events ++ [.accepted s.dec.command] }

/-- R76: the frame is rejected. -/
def rejectFrame (s : State) : State :=
  { s with dec := s.dec.resync, events := s.events ++ [.checksumMismatch] }

/-- R74-R76: the CHECKSUM byte. -/
def stepChecksum (b : Byte) (s : State) : State :=
  if checksumMatches s.dec b then acceptFrame s else rejectFrame s

/-- STEP(b): exactly one transition, chosen by DEC_STATE (R68). -/
def stepByte (b : Byte) (s : State) : State :=
  match s.dec.state with
  | .awaitingSync => stepAwaitingSync b s
  | .readingType => stepType b s
  | .readingLength => stepLength b s
  | .readingPayload => stepPayload b s
  | .readingChecksum => stepChecksum b s

/-- STEP for each byte, strictly in order (R67). -/
def ingestBytes : List Byte → State → State
  | [], s => s
  | b :: bs, s => ingestBytes bs (stepByte b s)

/-- RESET_DECODER's effect (R87). -/
def State.resync (s : State) : State := { s with dec := s.dec.resync }

/-- The per-call reset at the start of an INGEST (R67, R7). -/
def perCallReset (s : State) : State := if s.cfg.resetOnDelivery then s.resync else s

/-- POLL returns a result record to the application (R60; log entry 8). -/
def State.report (r : Option Command) (s : State) : State := { s with results := s.results ++ [pollRecord r] }

/-- The take: SLOT_UNREAD <- 0 and nothing else of the block (R85); the model records it (log entry 9). -/
def takeReady (c : Command) (s : State) : State :=
  { s with slot := s.slot.markTaken, events := s.events ++ [.taken c] }

/-- Transmit(frame): hands the frame to the sink by value; no result is read (R12, R38, R95). -/
def transmit (frame : List Byte) (s : State) : State := { s with txlog := s.txlog ++ [frame] }

/-- Takes the oldest pending request (R46); none when the block waits for an operation (R115). -/
def nextRequest (s : State) : Option (Request × State) :=
  match s.requests with
  | [] => none
  | r :: rest => some (r, { s with requests := rest })

end Sys2Proof.Machine
end

