-- ==== Sys2Proof/Machine/Handoff.lean ====
section
/-! DEFINITION. The meanings of POLL and RESET_DECODER (spec/41_handoff.md R85, R87). -/

namespace Sys2Proof.Machine

/-- POLL (R85): with SLOT_UNREAD = 1 it returns the Command and clears the flag, else it returns none and
changes no register. -/
def execPoll (s : State) : Host.Outcome State Fault Refusal :=
  match s.slot.ready with
  | some c => .next ((takeReady c s).report (some c))
  | none => .next (s.report none)

/-- RESET_DECODER (R87): writes DEC_STATE only. -/
def execResetDecoder (s : State) : Host.Outcome State Fault Refusal := .next s.resync

end Sys2Proof.Machine
end

