-- ==== Sys2Proof/Machine/Receiver.lean ====
section
/-! DEFINITION. The meaning of INGEST (spec/40_decoder.md R67). -/

namespace Sys2Proof.Machine

/-- INGEST (R67): the per-call reset, then STEP for each byte; one atomic transition (R44). -/
def execIngest (data : List Byte) (s : State) : Host.Outcome State Fault Refusal :=
  .next (ingestBytes data (perCallReset s))

end Sys2Proof.Machine
end

