-- ==== Sys2Proof/Machine/Transmitter.lean ====
section
/-! DEFINITION. The meanings of ENC_CONFIG_RESPONSE and ENC_CURRENT_SET (spec/42_encoder.md R92, R93). -/

namespace Sys2Proof.Machine

/-- ENC_CONFIG_RESPONSE (R92): one 8-byte frame to the sink. -/
def execEncConfigResponse (index : Byte) (v : Word) (s : State) : Host.Outcome State Fault Refusal :=
  .next (transmit (txFrame (configResponseBody index v)) s)

/-- ENC_CURRENT_SET (R93): one 7-byte frame to the sink. -/
def execEncCurrentSet (v : Word) (s : State) : Host.Outcome State Fault Refusal :=
  .next (transmit (txFrame (currentSetBody s.cfg v)) s)

end Sys2Proof.Machine
end

