-- ==== Sys2Proof/Machine/Dispatch.lean ====
section
/-! DEFINITION. One arm per operation of spec/opcode_table.json. -/

namespace Sys2Proof.Machine

def exec (i : Instr) (s : State) : Host.Outcome State Fault Refusal :=
  match i with
  | .ingest data => Sys2Proof.Machine.execIngest data s
  | .poll => Sys2Proof.Machine.execPoll s
  | .encConfigResponse index v => Sys2Proof.Machine.execEncConfigResponse index v s
  | .encCurrentSet v => Sys2Proof.Machine.execEncCurrentSet v s
  | .resetDecoder => Sys2Proof.Machine.execResetDecoder s

end Sys2Proof.Machine
end

