-- ==== Sys2Proof/Machine/Step.lean ====
section
/-! DEFINITION. One step: the block takes its oldest pending request, decodes it and runs it as one atomic
transition (spec/20_memory.md R44, R46). The block has no program counter and no program (R26, R49). -/

namespace Sys2Proof.Machine

/-- One operation in the total order of R46. A request outside the interface format is refused and changes
nothing (R58, R104). With no request pending the block waits (R115, R112; log entry 6). -/
def step (s : State) : Host.Outcome State Fault Refusal :=
  match nextRequest s with
  | none => .next s
  | some (r, s') =>
    match decode s.cfg r with
    | .ok i => exec i s'
    | .error why => .refused (.inadmissible why)

/-- The same block with the request whose bits are `w` issued ahead of every other, so that the very next
step runs it (log entry 3). -/
def State.withFetchWord (s : State) (nbits w : Nat) : State :=
  { s with requests := tableRequest nbits w :: s.requests }

end Sys2Proof.Machine
end

