-- ==== Sys2Proof/Safety.lean ====
section
/-! DEFINITION. What claims are stated in: the state after construction with any unspecified register contents
(spec/70_reset_and_hazards.md R115), the decoder's and the slot's invariants (spec/40_decoder.md R68, R74,
spec/20_memory.md R36), the abstract mailbox (spec/41_handoff.md R88), the environment's premises
(spec/60_exceptions.md R104, R111), and which registers are live (spec/10_state.md R31, R32, R34). -/

namespace Sys2Proof.Machine

/-- The block just constructed with parameters `c` (R32, R115): what R32 specifies, and nothing about the
registers it calls unspecified but their size. `requests` is what the agents have issued: anything (R106). -/
structure State.IsReset (c : Config) (s : State) : Prop where
  cfg : s.cfg = c
  decState : s.dec.state = .awaitingSync
  unread : s.slot.unread = false
  txlog : s.txlog = []
  results : s.results = []
  events : s.events = []
  bufSize : s.dec.buf.length = c.cap.val
  payloadSize : s.slot.payload.length = c.cap.val

/-- The decoder's invariant: DEC_BUF has CAP bytes (R36), and in each state the registers hold what the bytes
of the open frame made them (R68: DEC_CNT < DEC_LEN in ReadingPayload; R74: the running sum; R72: L ≤ CAP). -/
structure Decoder.Ok (cap : Nat) (d : Decoder) : Prop where
  bufSize : d.buf.length = cap
  typeSum : d.state = .readingType → d.sum = sum8 []
  lengthSum : d.state = .readingLength → d.sum = sum8 [d.type]
  payloadLen : d.state = .readingPayload → d.len.toNat ≤ cap
  payloadCnt : d.state = .readingPayload → d.cnt.toNat < d.len.toNat
  payloadSum : d.state = .readingPayload → d.sum = sum8 ([d.type, d.len] ++ d.buf.take d.cnt.toNat)
  checkLen : d.state = .readingChecksum → d.len.toNat ≤ cap
  checkCnt : d.state = .readingChecksum → d.cnt = d.len
  checkSum : d.state = .readingChecksum → d.sum = sum8 ([d.type, d.len] ++ d.buf.take d.len.toNat)

/-- The slot's invariant: SLOT_PAYLOAD has CAP bytes, and an unread Command is no longer than CAP (R22, R36). -/
structure Slot.Ok (cap : Nat) (sl : Slot) : Prop where
  payloadSize : sl.payload.length = cap
  lenFits : sl.unread = true → sl.len.toNat ≤ cap

/-- The invariant of the block. -/
structure State.Inv (s : State) : Prop where
  dec : s.dec.Ok s.cfg.cap.val
  slot : s.slot.Ok s.cfg.cap.val

/-- One event's effect on the abstract mailbox of R88: capacity one, overwrite when full, take empties. -/
def mailboxStep (m : Option Command) : Event → Option Command
  | .desync => m
  | .checksumMismatch => m
  | .lengthOverflow => m
  | .accepted c => some c
  | .taken _ => none

/-- The mailbox after a history of events, empty at the start (R88). -/
def mailbox (es : List Event) : Option Command := es.foldl mailboxStep none

/-- The ready slot holds what the abstract mailbox holds (R88, R89). -/
def State.MailboxOk (s : State) : Prop := s.slot.ready = mailbox s.events

/-- The accepted Commands of a history, in order. -/
def acceptedIn (es : List Event) : List Command :=
  es.filterMap fun
    | .accepted c => some c
    | .desync => none
    | .checksumMismatch => none
    | .lengthOverflow => none
    | .taken _ => none

/-- The frame an operation hands to the transmit sink, if it hands one over (R54, R55, R92, R93, R96). -/
def sentFrame (c : Config) : Instr → Option (List Byte)
  | .ingest _ => none
  | .poll => none
  | .resetDecoder => none
  | .encConfigResponse index v => some (txFrame ([0x03, index] ++ valueBytes v))
  | .encCurrentSet v => some (txFrame ([c.curSetType] ++ valueBytes v))

/-- Every pending request is within the interface format (R58): the premise of every claim about a run. -/
def State.Admissible (s : State) : Prop := ∀ r ∈ s.requests, ∃ i, decode s.cfg r = .ok i

/-- Each pending request was issued by the agent R111 assigns it to. The block does not check it. -/
def State.AssignmentHolds (s : State) : Prop :=
  ∀ r ∈ s.requests, ∀ i, decode s.cfg r = .ok i → i.agent = r.agent

/-- A safe run of k steps: it ends in a state, neither in a fault nor in a refusal. -/
def SafeRun (k : Nat) (s t : State) : Prop := Host.Core.run Sys2Proof.core k s = .next t

/-- The decoder is in AwaitingSync when the first byte of an INGEST is processed: the per-call reset puts it
there (R67), or it is there already (R82). -/
def State.StartsInSync (s : State) : Prop :=
  s.cfg.resetOnDelivery = true ∨ s.dec.state = .awaitingSync

/-- Two decoders agree on every register a rule reads before it is written again (R31, R32): none but
DEC_STATE in AwaitingSync, DEC_BUF only below DEC_CNT while the payload is read and below DEC_LEN after. -/
structure Decoder.LiveEq (d e : Decoder) : Prop where
  state : d.state = e.state
  sum : d.state ≠ .awaitingSync → d.sum = e.sum
  type : d.state ≠ .awaitingSync → d.state ≠ .readingType → d.type = e.type
  len : d.state = .readingPayload ∨ d.state = .readingChecksum → d.len = e.len
  cnt : d.state = .readingPayload → d.cnt = e.cnt
  payload : d.state = .readingPayload → d.buf.take d.cnt.toNat = e.buf.take e.cnt.toNat
  whole : d.state = .readingChecksum → d.buf.take d.len.toNat = e.buf.take e.len.toNat

/-- Two states agree on everything but dead registers and the free-value counter: the slot only through the
Command it has ready (R34). -/
structure State.LiveEq (s t : State) : Prop where
  cfg : s.cfg = t.cfg
  dec : s.dec.LiveEq t.dec
  ready : s.slot.ready = t.slot.ready
  txlog : s.txlog = t.txlog
  results : s.results = t.results
  requests : s.requests = t.requests
  events : s.events = t.events

/-- Two states agree outside the decoder's registers and the free-value counter (R31). -/
structure State.SameOutsideDecoder (s t : State) : Prop where
  cfg : s.cfg = t.cfg
  slot : s.slot = t.slot
  txlog : s.txlog = t.txlog
  results : s.results = t.results
  requests : s.requests = t.requests
  events : s.events = t.events

end Sys2Proof.Machine
end

