-- ==== Sys2Proof/Certificates/Slice0/Obligations.lean ====
section
/-! DEFINITION. The statements about the HDR-CS frame codec, taken from the numbered rules of spec/. A statement
about every state covers every value of CAP, RESET_ON_DELIVERY, CUR_SET_TYPE and MAX_DELIVERY, since the
configuration is a field of State (log entry 1). -/

open Sys2Proof Sys2Proof.Machine

/-! ## Reset, configuration, requests -/

/-- R32, R115, with the parameter values of R6, R7 and the constants of R8. The fields `results`, `events` and
the sizes of the unspecified buffers inside `IsReset` are the model's (log entries 2, 8, 9). -/
def Obligations.ResetRegisters : Prop :=
  (∀ c : Config, (State.resetWith c).IsReset c) ∧
  State.reset = State.resetWith Config.hardware ∧
  Config.hardware.cap.val = 255 ∧ Config.hardware.resetOnDelivery = true ∧
  Config.hardware.curSetType = 0x05 ∧ Config.hardware.maxDelivery.val = 2 ^ 32 - 1 ∧
  syncByte = 0xAA ∧ cfgRspType = 0x03

/-- Any state R32 allows after reset, whatever its unspecified registers hold, meets both invariants. -/
def Obligations.ResetMeetsInvariants : Prop :=
  ∀ (c : Config) (s : State), s.IsReset c → s.Inv ∧ s.MailboxOk

/-- R36, R68, R73, R74: buffer sizes, DEC_CNT < DEC_LEN ≤ CAP while the payload is read, and the running sum are
kept by every step. -/
def Obligations.StepKeepsInvariant : Prop :=
  ∀ s t : State, s.Inv → step s = .next t → t.Inv

/-- R24, R88: every step keeps the slot equal to the abstract mailbox (capacity one, overwrite when full, a take
empties it) of the model's event history (log entry 9). -/
def Obligations.StepKeepsMailbox : Prop :=
  ∀ s t : State, s.Inv → s.MailboxOk → step s = .next t → t.MailboxOk

/-- R30: no operation writes the configuration, over any number of steps. -/
def Obligations.ConfigurationNeverChanges : Prop :=
  ∀ (k : Nat) (s t : State), SafeRun k s t → t.cfg = s.cfg

/-- R44, R46: a step takes the oldest pending request and, when it decodes to an operation, is that operation's
meaning on the state with the request removed. -/
def Obligations.StepRunsDecodedRequest : Prop :=
  ∀ (s : State) (r : Request) (rest : List Request) (i : Instr),
    s.requests = r :: rest → decode s.cfg r = .ok i → i.wf s.cfg = true →
    step s = exec i { s with requests := rest }

/-- R112, R115: with no request pending a step changes nothing (the model's choice, log entry 6). -/
def Obligations.StepWithoutRequestWaits : Prop :=
  ∀ s : State, s.requests = [] → step s = .next s

/-- R58, R104: a request whose data are as many as its header says (R59) and within MAX_DELIVERY runs exactly
when the four conditions of R58 hold, and is refused exactly when they do not. The refusal carries no state, so
nothing changes. -/
def Obligations.RequestRunsExactlyWhenAdmitted : Prop :=
  ∀ (s : State) (r : Request) (rest : List Request), s.requests = r :: rest →
    r.data.length = (if r.header.extractLsb' 0 3 = 0 then (r.header.extractLsb' 16 32).toNat else 0) →
    r.data.length ≤ s.cfg.maxDelivery.val →
    let admitted : Prop :=
      (r.header.extractLsb' 0 3).toNat ≤ 4 ∧
      (r.header.extractLsb' 3 5).toNat = 0 ∧
      ((r.header.extractLsb' 0 3).toNat = 2 ∨ (r.header.extractLsb' 8 8).toNat = 0) ∧
      ((r.header.extractLsb' 0 3).toNat ∈ [0, 2, 3] ∨ (r.header.extractLsb' 16 32).toNat = 0)
    ((∃ t, step s = .next t) ↔ admitted) ∧
    ((∃ why, step s = .refused (.inadmissible why)) ↔ ¬ admitted)

/-- R59 with log entries 5 and 13 (the model's choice): a request whose data are not as many as its header says,
or an INGEST of more than MAX_DELIVERY bytes, is refused. -/
def Obligations.DataOfWrongLengthRefused : Prop :=
  ∀ (s : State) (r : Request) (rest : List Request), s.requests = r :: rest →
    r.data.length ≠ (if r.header.extractLsb' 0 3 = 0 then (r.header.extractLsb' 16 32).toNat else 0) ∨
      s.cfg.maxDelivery.val < r.data.length →
    ∃ why, step s = .refused (.inadmissible why)

/-- R57: decoding what encoding gives is the operation itself, for every well-formed operation with every operand. -/
def Obligations.DecodeOfEncode : Prop :=
  ∀ (c : Config) (a : Agent) (i : Instr), i.wf c = true → decode c (encode a i) = .ok i

/-- R57, R58: the decoder accepts nothing but encodings: each admitted request is the encoding of the well-formed
operation it decodes to, bit for bit. -/
def Obligations.EncodeOfDecode : Prop :=
  ∀ (c : Config) (r : Request) (i : Instr), decode c r = .ok i → i.wf c = true ∧ encode r.agent i = r

/-- opcode_table.json: a header matches at most one row, it matches one exactly when R58 admits it, and a request
decodes to the operation of the row its header matches. -/
def Obligations.OpcodeTableAgreesWithDecoder : Prop :=
  (∀ h : Header, (matchingRows h).length ≤ 1) ∧
  (∀ h : Header, matchingRows h ≠ [] ↔ headerAdmitted h = true) ∧
  (∀ (c : Config) (r : Request) (i : Instr), decode c r = .ok i →
    (matchingRows r.header).map OpRow.mnemonic = [i.mnemonic])

/-- R57, R58: header words written out from the request format (95_test_vectors.md P1, X-1 to X-5). -/
def Obligations.HeaderWordsDecode : Prop :=
  let d (h : Header) (data : List Byte) : Except Reject Instr := decode Config.hardware ⟨.application, h, data⟩
  d 0x000000040000 [0xAA, 0x02, 0x00, 0x02] = .ok (.ingest [0xAA, 0x02, 0x00, 0x02]) ∧
  d 0x000000000001 [] = .ok .poll ∧
  d 0x3FC000000302 [] = .ok (.encConfigResponse 0x03 0x3FC00000) ∧
  d 0x3FC000000003 [] = .ok (.encCurrentSet 0x3FC00000) ∧
  d 0x000000000004 [] = .ok .resetDecoder ∧
  d 0x000000000005 [] = .error (.reservedOp 5) ∧
  d 0x000000000009 [] = .error (.reservedBits 1) ∧
  d 0x000000000101 [] = .error (.strayIndex 1) ∧
  d 0x000000010004 [] = .error (.strayArg 1) ∧
  d 0x3FC000000103 [] = .error (.strayIndex 1)

/-- R111: the operation-to-agent assignment, and that the block does not check it: a request from the other agent has
the same effect. -/
def Obligations.IssuingAgentIsNotChecked : Prop :=
  (∀ data, (Instr.ingest data).agent = .receive) ∧ Instr.resetDecoder.agent = .receive ∧
  Instr.poll.agent = .application ∧ (∀ index v, (Instr.encConfigResponse index v).agent = .application) ∧
  (∀ v, (Instr.encCurrentSet v).agent = .application) ∧
  (∀ (s : State) (a b : Agent) (h : Header) (data : List Byte) (rest : List Request),
    step { s with requests := ⟨a, h, data⟩ :: rest } = step { s with requests := ⟨b, h, data⟩ :: rest })

/-! ## INGEST and STEP -/

/-- R67: the per-call reset when RESET_ON_DELIVERY, then STEP for each byte in order, in one transition; OP = 0 and
ARG = n with the n bytes after the header; and the rule's example. -/
def Obligations.IngestDeliversBytesInOrder : Prop :=
  (∀ (data : List Byte) (s : State),
    exec (.ingest data) s = .next (data.foldl (fun t b => stepByte b t)
      (if s.cfg.resetOnDelivery = true then { s with dec := { s.dec with state := .awaitingSync } } else s))) ∧
  (∀ (c : Config) (a : Agent) (data : List Byte), data.length ≤ c.maxDelivery.val →
    decode c ⟨a, BitVec.ofNat 48 (data.length * 2 ^ 16), data⟩ = .ok (.ingest data)) ∧
  (∀ (c : Config) (s : State), s.IsReset c → ∃ t, exec (.ingest [0xAA, 0x02, 0x00, 0x02]) s = .next t ∧
    t.slot.type = 0x02 ∧ t.slot.len = 0 ∧ t.slot.command.payload = [] ∧ t.slot.unread = true ∧
    t.dec.state = .awaitingSync)

/-- R68: the next DEC_STATE of every row of the transition table. DEC_CNT < DEC_LEN on entry to ReadingPayload is
part of `Inv`. -/
def Obligations.StepFollowsTransitionTable : Prop :=
  ∀ (b : Byte) (s : State), s.Inv →
    (s.dec.state = .awaitingSync → b = 0xAA → (stepByte b s).dec.state = .readingType) ∧
    (s.dec.state = .awaitingSync → b ≠ 0xAA → (stepByte b s).dec.state = .awaitingSync) ∧
    (s.dec.state = .readingType → (stepByte b s).dec.state = .readingLength) ∧
    (s.dec.state = .readingLength → s.cfg.cap.val < b.toNat → (stepByte b s).dec.state = .awaitingSync) ∧
    (s.dec.state = .readingLength → b = 0 → (stepByte b s).dec.state = .readingChecksum) ∧
    (s.dec.state = .readingLength → 1 ≤ b.toNat → b.toNat ≤ s.cfg.cap.val →
      (stepByte b s).dec.state = .readingPayload) ∧
    (s.dec.state = .readingPayload → s.dec.cnt.toNat < s.dec.len.toNat) ∧
    (s.dec.state = .readingPayload → s.dec.cnt.toNat + 1 < s.dec.len.toNat →
      (stepByte b s).dec.state = .readingPayload) ∧
    (s.dec.state = .readingPayload → s.dec.cnt.toNat + 1 = s.dec.len.toNat →
      (stepByte b s).dec.state = .readingChecksum) ∧
    (s.dec.state = .readingChecksum → (stepByte b s).dec.state = .awaitingSync)

/-- R69: SYNC clears DEC_SUM and opens a frame; every other byte is dropped as DESYNC and changes no register. -/
def Obligations.StepInAwaitingSync : Prop :=
  ∀ (b : Byte) (s : State), s.dec.state = .awaitingSync →
    (b = 0xAA → stepByte b s = { s with dec := { s.dec with sum := 0, state := .readingType } }) ∧
    (b ≠ 0xAA → stepByte b s = { s with events := s.events ++ [.desync] })

/-- R70: any byte, 0xAA too, is stored as the type and added to DEC_SUM. -/
def Obligations.StepInReadingType : Prop :=
  ∀ (b : Byte) (s : State), s.dec.state = .readingType →
    stepByte b s = { s with dec := { s.dec with type := b, sum := s.dec.sum + b, state := .readingLength } }

/-- R71: a LENGTH byte within CAP. -/
def Obligations.StepInReadingLength : Prop :=
  ∀ (b : Byte) (s : State), s.dec.state = .readingLength → b.toNat ≤ s.cfg.cap.val →
    (b = 0 → stepByte b s = { s with
      dec := { s.dec with len := b, sum := s.dec.sum + b, cnt := 0, state := .readingChecksum } }) ∧
    (b ≠ 0 → stepByte b s = { s with
      dec := { s.dec with len := b, sum := s.dec.sum + b, cnt := 0, state := .readingPayload } })

/-- R72: a LENGTH byte above CAP returns the decoder to AwaitingSync; DEC_LEN, DEC_SUM and DEC_CNT are each written
as in R71 or left (the free value of log entry 10; the counter `freeIdx` is the model's); nothing else of the
block changes. The last clause is the rule's example with CAP = 16. -/
def Obligations.StepOnLengthOverflow : Prop :=
  (∀ (b : Byte) (s : State), s.dec.state = .readingLength → s.cfg.cap.val < b.toNat →
    ∃ len sum cnt : Byte, (len = s.dec.len ∨ len = b) ∧ (sum = s.dec.sum ∨ sum = s.dec.sum + b) ∧
      (cnt = s.dec.cnt ∨ cnt = 0) ∧
      stepByte b s = { s with
        dec := { s.dec with len := len, sum := sum, cnt := cnt, state := .awaitingSync }
        events := s.events ++ [.lengthOverflow]
        freeIdx := s.freeIdx + 1 }) ∧
  (∀ s : State, s.cfg.cap.val = 16 → s.StartsInSync →
    ∃ t, exec (.ingest [0xAA, 0x00, 0x11, 0xAA, 0x02, 0x00, 0x02]) s = .next t ∧
      t.slot.ready = some ⟨0x02, 0, []⟩ ∧
      t.events = s.events ++ [.lengthOverflow, .accepted ⟨0x02, 0, []⟩])

/-- R73: any byte, 0xAA too, is stored at DEC_CNT and added to DEC_SUM; the comparison uses the incremented DEC_CNT.
In every state of the invariant the index is below DEC_LEN ≤ CAP and the counter does not wrap. -/
def Obligations.StepInReadingPayload : Prop :=
  ∀ (b : Byte) (s : State), s.dec.state = .readingPayload →
    (s.dec.cnt + 1 = s.dec.len → stepByte b s = { s with
      dec := { s.dec with
        buf := s.dec.buf.set s.dec.cnt.toNat b, sum := s.dec.sum + b, cnt := s.dec.cnt + 1
        state := .readingChecksum } }) ∧
    (s.dec.cnt + 1 ≠ s.dec.len → stepByte b s = { s with
      dec := { s.dec with
        buf := s.dec.buf.set s.dec.cnt.toNat b, sum := s.dec.sum + b, cnt := s.dec.cnt + 1 } }) ∧
    (s.Inv → s.dec.cnt.toNat < s.dec.len.toNat ∧ s.dec.len.toNat ≤ s.cfg.cap.val ∧
      (s.dec.cnt + 1).toNat = s.dec.cnt.toNat + 1)

/-- R75: a matching CHECKSUM byte copies DEC_TYPE, DEC_LEN and DEC_BUF[0..DEC_LEN) to the slot, keeps the rest of
SLOT_PAYLOAD, sets SLOT_UNREAD whatever it was, and returns to AwaitingSync; nothing else changes. -/
def Obligations.StepAcceptsMatchingChecksum : Prop :=
  ∀ (b : Byte) (s : State), s.Inv → s.dec.state = .readingChecksum → b = s.dec.sum →
    ∃ payload : List Byte,
      stepByte b s = { s with
        dec := { s.dec with state := .awaitingSync }
        slot := { type := s.dec.type, len := s.dec.len, payload := payload, unread := true }
        events := s.events ++ [.accepted ⟨s.dec.type, s.dec.len, s.dec.buf.take s.dec.len.toNat⟩] } ∧
      payload.length = s.cfg.cap.val ∧
      (∀ k, k < s.dec.len.toNat → payload[k]? = s.dec.buf[k]?) ∧
      (∀ k, s.dec.len.toNat ≤ k → payload[k]? = s.slot.payload[k]?)

/-- R76: any other CHECKSUM byte, 0xAA too, drops the frame: DEC_STATE alone is written, the slot and SLOT_UNREAD
keep what they held. -/
def Obligations.StepRejectsOtherChecksum : Prop :=
  ∀ (b : Byte) (s : State), s.dec.state = .readingChecksum → b ≠ s.dec.sum →
    stepByte b s = { s with
      dec := { s.dec with state := .awaitingSync }, events := s.events ++ [.checksumMismatch] }

/-- R52, R74: while the checksum is awaited, DEC_SUM is the sum modulo 256 of TYPE, LENGTH and the payload bytes,
SYNC not included. -/
def Obligations.RunningSumCoversFrame : Prop :=
  ∀ (data : List Byte) (s t : State), s.Inv → exec (.ingest data) s = .next t →
    t.dec.state = .readingChecksum →
    t.dec.sum.toNat =
      (t.dec.type.toNat + t.dec.len.toNat + ((t.dec.buf.take t.dec.len.toNat).map BitVec.toNat).sum) % 256

/-- R80: INGEST with n = 0. -/
def Obligations.EmptyDelivery : Prop :=
  ∀ s : State,
    (s.cfg.resetOnDelivery = true →
      exec (.ingest []) s = .next { s with dec := { s.dec with state := .awaitingSync } }) ∧
    (s.cfg.resetOnDelivery = false → exec (.ingest []) s = .next s)

/-- R79, R46: with RESET_ON_DELIVERY = false a partial frame is continued by the next INGEST, so any chunking of
the bytes gives the state of one delivery of them all. -/
def Obligations.ChunkingInvisibleWithoutReset : Prop :=
  ∀ (s : State) (chunks : List (List Byte)) (rest : List Request),
    s.cfg.resetOnDelivery = false → (∀ d ∈ chunks, d.length ≤ s.cfg.maxDelivery.val) →
    Host.Core.run Sys2Proof.core chunks.length
        { s with requests := chunks.map (fun d => encode .receive (.ingest d)) ++ rest } =
      exec (.ingest chunks.flatten) { s with requests := rest }

/-- R82: a frame delivered whole from AwaitingSync leaves the Command in the slot, whatever its TYPE (R81) and its
payload bytes (R78), and whatever the slot held (R24). -/
def Obligations.DeliveredFrameIsAccepted : Prop :=
  ∀ (s : State) (t : Byte) (p : List Byte), s.Inv → s.StartsInSync → p.length ≤ s.cfg.cap.val →
    ∃ u, exec (.ingest ([0xAA, t, BitVec.ofNat 8 p.length] ++ p ++
          [BitVec.ofNat 8 ((([t, BitVec.ofNat 8 p.length] ++ p).map BitVec.toNat).sum)])) s = .next u ∧
      u.slot.command = ⟨t, BitVec.ofNat 8 p.length, p⟩ ∧ u.slot.unread = true ∧
      u.dec.state = .awaitingSync ∧
      u.txlog = s.txlog ∧ u.results = s.results ∧ u.requests = s.requests ∧ u.cfg = s.cfg ∧
      u.events = s.events ++ [.accepted ⟨t, BitVec.ofNat 8 p.length, p⟩]

/-- R82, R85, R127: a frame issued as an INGEST and a POLL issued right after it: two steps end with that frame's
Command returned as the record 01 type length payload (R60), and the flag cleared. -/
def Obligations.DeliveredFrameIsPolled : Prop :=
  ∀ (s : State) (t : Byte) (p : List Byte) (a b : Agent) (rest : List Request),
    s.Inv → s.StartsInSync → p.length ≤ s.cfg.cap.val → p.length + 4 ≤ s.cfg.maxDelivery.val →
    s.requests = encode a (ingestFrame t p) :: encode b .poll :: rest →
    ∃ u, SafeRun 2 s u ∧ u.results = s.results ++ [[0x01, t, BitVec.ofNat 8 p.length] ++ p] ∧
      u.slot.unread = false ∧ u.requests = rest ∧ u.txlog = s.txlog

/-- R77: of the frames accepted inside one INGEST the last is in the slot afterwards; if none is accepted the slot
keeps what it held. -/
def Obligations.LastAcceptedFrameSurvives : Prop :=
  ∀ (s : State) (data : List Byte), s.Inv →
    ∃ u ev, exec (.ingest data) s = .next u ∧ u.events = s.events ++ ev ∧
      (∀ cs c, acceptedIn ev = cs ++ [c] → u.slot.ready = some c) ∧
      (acceptedIn ev = [] → u.slot = s.slot)

/-- R77, R82: any number of frames back to back in one INGEST are each accepted in turn, in order. -/
def Obligations.FramesBackToBackAllAccepted : Prop :=
  ∀ (s : State) (frames : List (Byte × List Byte)), s.Inv → s.StartsInSync →
    (∀ f ∈ frames, f.2.length ≤ s.cfg.cap.val) →
    ∃ u, exec (.ingest (frames.flatMap fun f => rxFrame f.1 f.2)) s = .next u ∧
      u.dec.state = .awaitingSync ∧
      u.events = s.events ++ frames.map (fun f => .accepted ⟨f.1, BitVec.ofNat 8 f.2.length, f.2⟩) ∧
      (∀ fs t p, frames = fs ++ [(t, p)] → u.slot.ready = some ⟨t, BitVec.ofNat 8 p.length, p⟩)

/-- R50, R51, R67: nothing is accepted that was not delivered: every Command accepted in an INGEST that starts in
AwaitingSync (every INGEST, with RESET_ON_DELIVERY = true) stands in that INGEST's bytes as one whole frame of R50's
layout. -/
def Obligations.AcceptedCommandsWereDelivered : Prop :=
  ∀ (s u : State) (data : List Byte) (ev : List Event) (c : Command), s.Inv → s.StartsInSync →
    exec (.ingest data) s = .next u → u.events = s.events ++ ev → c ∈ acceptedIn ev →
    c.payload.length = c.length.toNat ∧ c.payload.length ≤ s.cfg.cap.val ∧
    ∃ before after : List Byte, data = before ++ ([0xAA, c.type, c.length] ++ c.payload ++
      [BitVec.ofNat 8 ((([c.type, c.length] ++ c.payload).map BitVec.toNat).sum)]) ++ after

/-- R84: change one byte of a well-formed frame other than SYNC and LENGTH, and the frame is rejected. -/
def Obligations.OneChangedByteIsDetected : Prop :=
  ∀ (s : State) (t : Byte) (p : List Byte) (j : Nat) (b : Byte), s.Inv → s.StartsInSync →
    p.length ≤ s.cfg.cap.val → j < (rxFrame t p).length → j ≠ 0 → j ≠ 2 → (rxFrame t p)[j]? ≠ some b →
    ∃ u, exec (.ingest ((rxFrame t p).set j b)) s = .next u ∧ u.slot = s.slot ∧
      u.dec.state = .awaitingSync ∧ u.events = s.events ++ [.checksumMismatch] ∧
      u.txlog = s.txlog ∧ u.results = s.results

/-- R84, R125: changes that cancel modulo 256 are not detected, and a reordered payload is one of them. -/
def Obligations.ChecksumBlindToCancellingChanges : Prop :=
  (∀ (s : State) (t : Byte) (p q : List Byte), s.Inv → s.StartsInSync → p.length ≤ s.cfg.cap.val →
    q.length = p.length → sum8 q = sum8 p →
    ∃ u, exec (.ingest ([0xAA, t, BitVec.ofNat 8 p.length] ++ q ++
        [sum8 ([t, BitVec.ofNat 8 p.length] ++ p)])) s = .next u ∧
      u.slot.ready = some ⟨t, BitVec.ofNat 8 p.length, q⟩) ∧
  (∀ p q : List Byte, q.Perm p → q.length = p.length ∧ sum8 q = sum8 p)

/-- R119: a frame delivered in two or more non-empty pieces: with RESET_ON_DELIVERY = true its Command is never
accepted; with RESET_ON_DELIVERY = false, from AwaitingSync, it is. -/
def Obligations.SplitFrameNeverAccepted : Prop :=
  ∀ (s u : State) (t : Byte) (p : List Byte) (chunks : List (List Byte)) (ev : List Event),
    s.Inv → p.length ≤ s.cfg.cap.val → (∀ d ∈ chunks, d ≠ [] ∧ d.length ≤ s.cfg.maxDelivery.val) →
    2 ≤ chunks.length → chunks.flatten = rxFrame t p →
    s.requests = chunks.map (fun d => encode .receive (.ingest d)) →
    SafeRun chunks.length s u → u.events = s.events ++ ev →
    (s.cfg.resetOnDelivery = true → ⟨t, BitVec.ofNat 8 p.length, p⟩ ∉ acceptedIn ev) ∧
    (s.cfg.resetOnDelivery = false → s.dec.state = .awaitingSync →
      u.slot.ready = some ⟨t, BitVec.ofNat 8 p.length, p⟩)

/-- R83: bytes other than 0xAA before a frame have no effect on its decoding. -/
def Obligations.StrayBytesBeforeFrameHarmless : Prop :=
  ∀ (s u v : State) (before frame : List Byte), s.StartsInSync → (∀ b ∈ before, b ≠ 0xAA) →
    exec (.ingest frame) s = .next u → exec (.ingest (before ++ frame)) s = .next v →
    v.slot = u.slot ∧ v.dec.state = u.dec.state ∧ v.dec.type = u.dec.type ∧ v.dec.len = u.dec.len ∧
    v.dec.cnt = u.dec.cnt ∧ v.dec.buf = u.dec.buf ∧ v.dec.sum = u.dec.sum ∧
    ∃ ev, u.events = s.events ++ ev ∧ v.events = s.events ++ List.replicate before.length .desync ++ ev

/-- R121: a stray 0xAA before the frame AA 02 00 02 swallows it: nothing is accepted and the decoder waits for a
checksum. -/
def Obligations.StraySyncSwallowsFrame : Prop :=
  ∀ s : State, s.Inv → s.StartsInSync → 2 ≤ s.cfg.cap.val →
    ∃ u, exec (.ingest [0xAA, 0xAA, 0x02, 0x00, 0x02]) s = .next u ∧ u.slot = s.slot ∧ u.events = s.events ∧
      u.dec.state = .readingChecksum ∧ u.dec.type = 0xAA ∧ u.dec.len = 2 ∧ u.dec.cnt = 2 ∧ u.dec.sum = 0xAE

/-- R99's example, one frame: the frame ENC_CONFIG_RESPONSE 3, 0x3FC00000 sends, fed to the block's own decoder, is
read with L = 3 and rejected, and its last byte is dropped. R99 says of the others only that the decoder does not in
general return the Command the encoder meant; some of them are accepted. -/
def Obligations.ExampleConfigResponseIsRejectedByDecoder : Prop :=
  ∀ s : State, s.Inv → s.StartsInSync → 3 ≤ s.cfg.cap.val →
    ∃ u, exec (.ingest (txFrame (configResponseBody 3 0x3FC00000))) s = .next u ∧ u.slot = s.slot ∧
      u.events = s.events ++ [.checksumMismatch, .desync] ∧ u.dec.state = .awaitingSync ∧
      u.dec.type = 0x03 ∧ u.dec.len = 3 ∧ u.dec.buf.take 3 = [0x00, 0x00, 0xC0] ∧ u.dec.sum = 0xC6

/-- R126: an INGEST of n bytes from AwaitingSync accepts at most n/4 frames. -/
def Obligations.AcceptedFramesAreBounded : Prop :=
  ∀ (s u : State) (data : List Byte) (ev : List Event), s.Inv → s.StartsInSync →
    exec (.ingest data) s = .next u → u.events = s.events ++ ev →
    4 * (acceptedIn ev).length ≤ data.length

/-- R96, R102: the frame of INGEST: it writes neither TXLOG nor a POLL result nor the configuration nor a pending
request, and it changes the slot only by accepting a frame. -/
def Obligations.IngestFrame : Prop :=
  ∀ (s u : State) (data : List Byte), exec (.ingest data) s = .next u →
    u.txlog = s.txlog ∧ u.results = s.results ∧ u.cfg = s.cfg ∧ u.requests = s.requests ∧
    ∃ ev, u.events = s.events ++ ev ∧ (acceptedIn ev = [] → u.slot = s.slot)

/-- R36: an INGEST writes no byte of SLOT_PAYLOAD at or above the lengths of the frames it accepts, and neither
buffer changes its size. -/
def Obligations.PayloadTailIsKept : Prop :=
  ∀ (s u : State) (data : List Byte) (ev : List Event) (k : Nat), s.Inv →
    exec (.ingest data) s = .next u → u.events = s.events ++ ev →
    (∀ c ∈ acceptedIn ev, c.length.toNat ≤ k) →
    u.slot.payload[k]? = s.slot.payload[k]? ∧
    u.slot.payload.length = s.cfg.cap.val ∧ u.dec.buf.length = s.cfg.cap.val

/-! ## POLL and RESET_DECODER -/

/-- R85, R60: POLL with SLOT_UNREAD = 1 returns 01 type length payload and clears the flag; with SLOT_UNREAD = 0 it
returns 00 and changes no register; OP = 1, IDX = 0, ARG = 0. The fields `results` and `events` are the model's
(log entries 8, 9). -/
def Obligations.PollTakesReadyCommand : Prop :=
  (∀ s : State, s.slot.unread = true → exec .poll s = .next { s with
    slot := { s.slot with unread := false }
    results := s.results ++
      [[0x01, s.slot.type, s.slot.len] ++ s.slot.payload.take s.slot.len.toNat]
    events := s.events ++ [.taken ⟨s.slot.type, s.slot.len, s.slot.payload.take s.slot.len.toNat⟩] }) ∧
  (∀ s : State, s.slot.unread = false → exec .poll s = .next { s with results := s.results ++ [[0x00]] }) ∧
  (∀ (c : Config) (a : Agent), decode c ⟨a, 0x000000000001, []⟩ = .ok .poll) ∧
  (∀ (c : Config) (s : State), s.IsReset c →
    ∃ t u v, exec (.ingest [0xAA, 0x02, 0x00, 0x02]) s = .next t ∧ exec .poll t = .next u ∧
      exec .poll u = .next v ∧ v.results = s.results ++ [[0x01, 0x02, 0x00], [0x00]])

/-- R86: any number of POLLs with nothing ready each return none and change nothing else; after a POLL that took a
Command every later one returns none, until a frame is accepted. -/
def Obligations.RepeatedPollIsIdempotent : Prop :=
  ∀ (k : Nat) (s : State) (rest : List Request) (a : Agent),
    s.requests = List.replicate k (encode a .poll) ++ rest →
    (s.slot.unread = false → SafeRun k s { s with
      requests := rest, results := s.results ++ List.replicate k [0x00] }) ∧
    (s.slot.unread = true → ∀ j, k = j + 1 → ∃ u, SafeRun k s u ∧ u.requests = rest ∧ u.dec = s.dec ∧
      u.slot = { s.slot with unread := false } ∧
      u.results = s.results ++ [pollRecord (some s.slot.command)] ++ List.replicate j [0x00])

/-- R88: in every run from reset, whatever the unspecified registers held, a POLL returns the most recently accepted
frame that no earlier POLL has taken, and none if there is no such frame; it never waits. -/
def Obligations.PollReturnsNewestCommand : Prop :=
  ∀ (k : Nat) (c : Config) (s t : State), s.IsReset c → SafeRun k s t →
    ∃ u, exec .poll t = .next u ∧ u.results = t.results ++ [pollRecord (mailbox t.events)] ∧
      u.slot.unread = false

/-- R89: the Command a POLL returns is exactly the one a single accepted frame wrote. -/
def Obligations.PolledCommandIsOneAcceptedFrame : Prop :=
  ∀ s : State, s.Inv → s.MailboxOk → s.slot.unread = true →
    ∃ c t, .accepted c ∈ s.events ∧ exec .poll s = .next t ∧
      t.results = s.results ++ [[0x01, c.type, c.length] ++ c.payload]

/-- R91: a POLL between two INGESTs does not change how the second decodes. -/
def Obligations.PollNeverChangesDecoding : Prop :=
  ∀ (s p u v : State) (data : List Byte), exec .poll s = .next p → exec (.ingest data) s = .next u →
    exec (.ingest data) p = .next v →
    p.dec = s.dec ∧ v.dec = u.dec ∧
    ∃ ev, u.events = s.events ++ ev ∧ v.events = p.events ++ ev

/-- R87, R90, R116: RESET_DECODER writes DEC_STATE and nothing else, whatever RESET_ON_DELIVERY is; OP = 4, IDX = 0,
ARG = 0; it is the per-call reset issued alone; and the rule's example. -/
def Obligations.ResetDecoderWritesDecStateOnly : Prop :=
  (∀ s : State, exec .resetDecoder s = .next { s with dec := { s.dec with state := .awaitingSync } }) ∧
  (∀ (c : Config) (a : Agent), decode c ⟨a, 0x000000000004, []⟩ = .ok .resetDecoder) ∧
  (∀ s : State, s.dec.state = .awaitingSync → exec .resetDecoder s = .next s) ∧
  (∀ s : State, s.cfg.resetOnDelivery = true → exec .resetDecoder s = exec (.ingest []) s) ∧
  (∀ (c : Config) (s : State), s.IsReset c → c.resetOnDelivery = false →
    ∃ t u v, exec (.ingest [0xAA, 0x02]) s = .next t ∧ exec .resetDecoder t = .next u ∧
      exec (.ingest [0x00, 0x02]) u = .next v ∧ v.slot = s.slot ∧ acceptedIn v.events = [])

/-! ## The encoder -/

/-- R92, R54, R98: ENC_CONFIG_RESPONSE hands AA 03 index v[7:0] v[15:8] v[23:16] v[31:24] checksum to the sink and
writes nothing else, for every index and every pattern; OP = 2, IDX = index, ARG = v; and the rule's example. -/
def Obligations.ConfigResponseIsTransmitted : Prop :=
  (∀ (index : Byte) (v : Word) (s : State), exec (.encConfigResponse index v) s = .next { s with
    txlog := s.txlog ++ [[0xAA, 0x03, index, v.extractLsb' 0 8, v.extractLsb' 8 8, v.extractLsb' 16 8,
      v.extractLsb' 24 8, BitVec.ofNat 8 (3 + index.toNat + (v.extractLsb' 0 8).toNat +
        (v.extractLsb' 8 8).toNat + (v.extractLsb' 16 8).toNat + (v.extractLsb' 24 8).toNat)]] }) ∧
  (∀ (c : Config) (a : Agent) (index : Byte) (v : Word),
    decode c ⟨a, BitVec.ofNat 48 (v.toNat * 2 ^ 16 + index.toNat * 2 ^ 8 + 2), []⟩ =
      .ok (.encConfigResponse index v)) ∧
  (∀ s : State, exec (.encConfigResponse 3 0x3FC00000) s = .next { s with
    txlog := s.txlog ++ [[0xAA, 0x03, 0x03, 0x00, 0x00, 0xC0, 0x3F, 0x05]] })

/-- R93, R55, R98: ENC_CURRENT_SET hands AA CUR_SET_TYPE v[7:0] v[15:8] v[23:16] v[31:24] checksum to the sink and
writes nothing else, for every pattern; OP = 3, IDX = 0, ARG = v; CUR_SET_TYPE is 0x05 on this hardware (log
entry 12); and the rule's example. -/
def Obligations.CurrentSetIsTransmitted : Prop :=
  (∀ (v : Word) (s : State), exec (.encCurrentSet v) s = .next { s with
    txlog := s.txlog ++ [[0xAA, s.cfg.curSetType, v.extractLsb' 0 8, v.extractLsb' 8 8, v.extractLsb' 16 8,
      v.extractLsb' 24 8, BitVec.ofNat 8 (s.cfg.curSetType.toNat + (v.extractLsb' 0 8).toNat +
        (v.extractLsb' 8 8).toNat + (v.extractLsb' 16 8).toNat + (v.extractLsb' 24 8).toNat)]] }) ∧
  Config.hardware.curSetType = 0x05 ∧
  (∀ (c : Config) (a : Agent) (v : Word),
    decode c ⟨a, BitVec.ofNat 48 (v.toNat * 2 ^ 16 + 3), []⟩ = .ok (.encCurrentSet v)) ∧
  (∀ s : State, s.cfg.curSetType = 0x05 → exec (.encCurrentSet 0x3FC00000) s = .next { s with
    txlog := s.txlog ++ [[0xAA, 0x05, 0x00, 0x00, 0xC0, 0x3F, 0x04]] })

/-- R94, R97: each ENC_* appends one frame, of 8 and of 7 bytes whatever the operands; its last byte is the sum
modulo 256 of the bytes from TYPE to the last value byte, SYNC excluded. -/
def Obligations.TransmittedFrameShape : Prop :=
  ∀ (i : Instr) (s : State), (∃ index v, i = .encConfigResponse index v) ∨ (∃ v, i = .encCurrentSet v) →
    ∃ body t, exec i s = .next t ∧
      t.txlog = s.txlog ++ [[0xAA] ++ body ++ [BitVec.ofNat 8 ((body.map BitVec.toNat).sum)]] ∧
      ((∃ index v, i = .encConfigResponse index v) → body.length = 6) ∧
      ((∃ v, i = .encCurrentSet v) → body.length = 5)

/-- R61, R40: the four wire bytes, the least significant first, rebuild the operand. -/
def Obligations.ValueBytesRebuildOperand : Prop :=
  ∀ v : Word, ∃ f0 f1 f2 f3 : Byte, valueBytes v = [f0, f1, f2, f3] ∧
    v.toNat = f3.toNat * 2 ^ 24 + f2.toNat * 2 ^ 16 + f1.toNat * 2 ^ 8 + f0.toNat

/-- R96: ENC_* reads and writes no decoder or slot register, and INGEST, POLL and RESET_DECODER never write TXLOG:
an encoder operation and one of the others can be exchanged. -/
def Obligations.EncoderAndDecoderIndependent : Prop :=
  ∀ (e o : Instr) (s s₁ s₂ : State),
    ((∃ index v, e = .encConfigResponse index v) ∨ (∃ v, e = .encCurrentSet v)) →
    ((∃ data, o = .ingest data) ∨ o = .poll ∨ o = .resetDecoder) →
    exec e s = .next s₁ → exec o s = .next s₂ →
    s₁.dec = s.dec ∧ s₁.slot = s.slot ∧ s₂.txlog = s.txlog ∧ exec o s₁ = exec e s₂

/-- R46, R29: TXLOG holds the frames of the ENC_* operations in the order they were issued, one each, whatever the
other operations between them. -/
def Obligations.TxlogKeepsIssueOrder : Prop :=
  ∀ (ops : List Instr) (s u : State) (a : Agent), (∀ i ∈ ops, i.wf s.cfg = true) →
    s.requests = ops.map (encode a) → SafeRun ops.length s u →
    u.txlog = s.txlog ++ ops.filterMap (sentFrame s.cfg)

/-! ## The whole machine -/

/-- R13, R100: no admitted operation fails: exec answers a next state for every operation in every state. -/
def Obligations.EveryOperationCompletes : Prop :=
  ∀ (i : Instr) (s : State), ∃ t, exec i s = .next t

/-- R13, R104: a block whose pending requests are all admitted takes every one of them and stops at none. -/
def Obligations.AdmittedRunsNeverStop : Prop :=
  ∀ s : State, s.Admissible → ∃ t, SafeRun s.requests.length s t ∧ t.requests = []

/-- R25: the operations of the application agent write no decoder register and, of the slot, only clear
SLOT_UNREAD; those of the receive agent never clear SLOT_UNREAD and write neither TXLOG nor a POLL result. -/
def Obligations.AgentsOwnTheirRegisters : Prop :=
  ∀ (s t : State) (r : Request) (rest : List Request) (i : Instr),
    s.requests = r :: rest → decode s.cfg r = .ok i → step s = .next t →
    (i.agent = .application → t.dec = s.dec ∧ t.slot.type = s.slot.type ∧ t.slot.len = s.slot.len ∧
      t.slot.payload = s.slot.payload ∧ (t.slot.unread = true → s.slot.unread = true)) ∧
    (i.agent = .receive → t.txlog = s.txlog ∧ t.results = s.results ∧
      (s.slot.unread = true → t.slot.unread = true))

/-- R23: SLOT_UNREAD goes from 1 to 0 only in a POLL, which then returned a Command, and from 0 to 1 only in an
INGEST that accepted a frame. -/
def Obligations.UnreadFlagDiscipline : Prop :=
  ∀ (i : Instr) (s t : State), exec i s = .next t →
    (s.slot.unread = true → t.slot.unread = false →
      i = .poll ∧ t.results = s.results ++ [pollRecord (some s.slot.command)]) ∧
    (s.slot.unread = false → t.slot.unread = true →
      (∃ data, i = .ingest data) ∧ ∃ ev, t.events = s.events ++ ev ∧ acceptedIn ev ≠ [])

/-- R32, R34, R72, I3, I4: no rule reads a register before a rule writes it: two blocks that agree on everything but
registers no rule will read before it is written (those R32 leaves unspecified, the stale bytes of the slot, what a
rejected LENGTH byte leaves) stop or go on together for ever and agree in the same way after any number of steps. -/
def Obligations.UnspecifiedRegistersNeverMatter : Prop :=
  (∀ (k : Nat) (s t s' : State), s.Inv → t.Inv → s.LiveEq t → SafeRun k s s' →
    ∃ t', SafeRun k t t' ∧ s'.LiveEq t') ∧
  (∀ (c : Config) (s t : State), s.IsReset c → t.IsReset c → s.requests = t.requests → s.LiveEq t)

/-- R31: with RESET_ON_DELIVERY = true no decoder register carries from one INGEST into the next: blocks that differ
in those registers alone answer every further operation alike. -/
def Obligations.DecoderCarriesNothingAcrossDeliveries : Prop :=
  ∀ (k : Nat) (s t s' : State), s.cfg.resetOnDelivery = true → s.Inv → t.Inv → s.SameOutsideDecoder t →
    SafeRun k s s' → ∃ t', SafeRun k t t' ∧ s'.SameOutsideDecoder t'

/-- R16: the five codes of DEC_STATE, distinct, and none of them 5, 6 or 7. -/
def Obligations.DecStateCodes : Prop :=
  DecState.code .awaitingSync = 0 ∧ DecState.code .readingType = 1 ∧ DecState.code .readingLength = 2 ∧
  DecState.code .readingPayload = 3 ∧ DecState.code .readingChecksum = 4 ∧
  (∀ d e : DecState, d.code = e.code → d = e) ∧ (∀ d : DecState, d.code.toNat ≤ 4)
end

