-- ==== Sys2Proof/Laws/Checksum.lean ====
section
/-! SUPPORT. The 8-bit sum of spec/00_scope.md R11 and the decoder's running sum (spec/10_state.md R18). -/

namespace Sys2Proof.Machine

@[simp] theorem sum8_nil : sum8 [] = 0 := rfl

theorem sum8_append (xs ys : List Byte) : sum8 (xs ++ ys) = addSum (sum8 xs) (sum8 ys) := by
  simp [sum8, addSum, BitVec.ofNat_add]

@[simp] theorem sum8_singleton (b : Byte) : sum8 [b] = b := by simp [sum8]

theorem sum8_cons (b : Byte) (xs : List Byte) : sum8 (b :: xs) = addSum b (sum8 xs) := by
  simpa using sum8_append [b] xs

/-- Adding the next byte to the running sum gives the sum of one byte more. -/
theorem addSum_sum8 (xs : List Byte) (b : Byte) : addSum (sum8 xs) b = sum8 (xs ++ [b]) := by
  rw [sum8_append, sum8_singleton]

/-- The sum depends on the bytes alone, not on their order (R84). -/
theorem sum8_perm {xs ys : List Byte} (h : xs.Perm ys) : sum8 xs = sum8 ys := by
  simp only [sum8, (h.map BitVec.toNat).sum_eq]

/-- Replacing one byte by another changes the sum (R84). -/
theorem sum8_ne_of_set {xs ys : List Byte} {a b : Byte} (h : a ≠ b) :
    sum8 (xs ++ a :: ys) ≠ sum8 (xs ++ b :: ys) := by
  simp only [sum8_append, sum8_cons, addSum]
  intro e
  exact h (add_right_cancel (add_left_cancel e))

end Sys2Proof.Machine
end

