-- ==== Sys2Proof/Laws/Encoding.lean ====
section
/-! SUPPORT. The fields of a packed header (spec/30_encoding.md R57). -/

namespace Sys2Proof

theorem toNat_packHeader (arg : Word) (idx : Byte) (op : BitVec 3) :
    (packHeader arg idx op).toNat = arg.toNat * 65536 + idx.toNat * 256 + op.toNat := by
  have h0 : (0 : BitVec 5).toNat = 0 := rfl
  have hi := idx.isLt
  have ho := op.isLt
  simp only [packHeader, BitVec.toNat_append, h0, Nat.or_zero]
  rw [← Nat.shiftLeft_add_eq_or_of_lt hi, ← Nat.shiftLeft_add_eq_or_of_lt ho]
  simp only [Nat.shiftLeft_eq]
  omega

@[simp] theorem reqOp_packHeader (arg : Word) (idx : Byte) (op : BitVec 3) :
    reqOp (packHeader arg idx op) = op := by
  apply BitVec.eq_of_toNat_eq
  have := op.isLt
  simp only [reqOp, BitVec.extractLsb'_toNat, toNat_packHeader, Nat.shiftRight_eq_div_pow]
  omega

@[simp] theorem reqRsv_packHeader (arg : Word) (idx : Byte) (op : BitVec 3) :
    reqRsv (packHeader arg idx op) = 0 := by
  apply BitVec.eq_of_toNat_eq
  have := op.isLt
  have := idx.isLt
  have h0 : (0 : BitVec 5).toNat = 0 := rfl
  simp only [reqRsv, BitVec.extractLsb'_toNat, toNat_packHeader, Nat.shiftRight_eq_div_pow, h0]
  omega

@[simp] theorem reqIdx_packHeader (arg : Word) (idx : Byte) (op : BitVec 3) :
    reqIdx (packHeader arg idx op) = idx := by
  apply BitVec.eq_of_toNat_eq
  have := op.isLt
  have := idx.isLt
  simp only [reqIdx, BitVec.extractLsb'_toNat, toNat_packHeader, Nat.shiftRight_eq_div_pow]
  omega

@[simp] theorem reqArg_packHeader (arg : Word) (idx : Byte) (op : BitVec 3) :
    reqArg (packHeader arg idx op) = arg := by
  apply BitVec.eq_of_toNat_eq
  have := op.isLt
  have := idx.isLt
  have := arg.isLt
  simp only [reqArg, BitVec.extractLsb'_toNat, toNat_packHeader, Nat.shiftRight_eq_div_pow]
  omega

/-- A header whose RSV bits are 0 is packed from its own fields. -/
theorem packHeader_fields (h : Header) (hr : reqRsv h = 0) :
    packHeader (reqArg h) (reqIdx h) (reqOp h) = h := by
  apply BitVec.eq_of_toNat_eq
  have h0 : (reqRsv h).toNat = 0 := by rw [hr]; rfl
  have := h.isLt
  rw [toNat_packHeader]
  simp only [reqRsv, reqArg, reqIdx, reqOp, BitVec.extractLsb'_toNat, Nat.shiftRight_eq_div_pow] at *
  omega

end Sys2Proof
end

