-- ==== Sys2Proof/Laws/State.lean ====
section
/-! SUPPORT. One lemma per field per named update, each true by unfolding one record update once, so that no
later proof unfolds one. -/

namespace Sys2Proof.Machine

@[simp] theorem State.record_cfg (e : Event) (s : State) : (s.record e).cfg = s.cfg := rfl
@[simp] theorem State.record_dec (e : Event) (s : State) : (s.record e).dec = s.dec := rfl
@[simp] theorem State.record_slot (e : Event) (s : State) : (s.record e).slot = s.slot := rfl
@[simp] theorem State.record_txlog (e : Event) (s : State) : (s.record e).txlog = s.txlog := rfl
@[simp] theorem State.record_results (e : Event) (s : State) : (s.record e).results = s.results := rfl
@[simp] theorem State.record_requests (e : Event) (s : State) : (s.record e).requests = s.requests := rfl
@[simp] theorem State.record_events (e : Event) (s : State) : (s.record e).events = s.events ++ [e] := rfl
@[simp] theorem State.record_freeIdx (e : Event) (s : State) : (s.record e).freeIdx = s.freeIdx := rfl

@[simp] theorem State.resync_cfg (s : State) : (s.resync).cfg = s.cfg := rfl
@[simp] theorem State.resync_dec (s : State) : (s.resync).dec = s.dec.resync := rfl
@[simp] theorem State.resync_slot (s : State) : (s.resync).slot = s.slot := rfl
@[simp] theorem State.resync_txlog (s : State) : (s.resync).txlog = s.txlog := rfl
@[simp] theorem State.resync_results (s : State) : (s.resync).results = s.results := rfl
@[simp] theorem State.resync_requests (s : State) : (s.resync).requests = s.requests := rfl
@[simp] theorem State.resync_events (s : State) : (s.resync).events = s.events := rfl
@[simp] theorem State.resync_freeIdx (s : State) : (s.resync).freeIdx = s.freeIdx := rfl

@[simp] theorem State.report_cfg (r : Option Command) (s : State) : (s.report r).cfg = s.cfg := rfl
@[simp] theorem State.report_dec (r : Option Command) (s : State) : (s.report r).dec = s.dec := rfl
@[simp] theorem State.report_slot (r : Option Command) (s : State) : (s.report r).slot = s.slot := rfl
@[simp] theorem State.report_txlog (r : Option Command) (s : State) : (s.report r).txlog = s.txlog := rfl
@[simp] theorem State.report_results (r : Option Command) (s : State) : (s.report r).results = s.results ++ [pollRecord r] := rfl
@[simp] theorem State.report_requests (r : Option Command) (s : State) : (s.report r).requests = s.requests := rfl
@[simp] theorem State.report_events (r : Option Command) (s : State) : (s.report r).events = s.events := rfl
@[simp] theorem State.report_freeIdx (r : Option Command) (s : State) : (s.report r).freeIdx = s.freeIdx := rfl

@[simp] theorem takeReady_cfg (c : Command) (s : State) : (takeReady c s).cfg = s.cfg := rfl
@[simp] theorem takeReady_dec (c : Command) (s : State) : (takeReady c s).dec = s.dec := rfl
@[simp] theorem takeReady_slot (c : Command) (s : State) : (takeReady c s).slot = s.slot.markTaken := rfl
@[simp] theorem takeReady_txlog (c : Command) (s : State) : (takeReady c s).txlog = s.txlog := rfl
@[simp] theorem takeReady_results (c : Command) (s : State) : (takeReady c s).results = s.results := rfl
@[simp] theorem takeReady_requests (c : Command) (s : State) : (takeReady c s).requests = s.requests := rfl
@[simp] theorem takeReady_events (c : Command) (s : State) : (takeReady c s).events = s.events ++ [.taken c] := rfl
@[simp] theorem takeReady_freeIdx (c : Command) (s : State) : (takeReady c s).freeIdx = s.freeIdx := rfl

@[simp] theorem transmit_cfg (f : List Byte) (s : State) : (transmit f s).cfg = s.cfg := rfl
@[simp] theorem transmit_dec (f : List Byte) (s : State) : (transmit f s).dec = s.dec := rfl
@[simp] theorem transmit_slot (f : List Byte) (s : State) : (transmit f s).slot = s.slot := rfl
@[simp] theorem transmit_txlog (f : List Byte) (s : State) : (transmit f s).txlog = s.txlog ++ [f] := rfl
@[simp] theorem transmit_results (f : List Byte) (s : State) : (transmit f s).results = s.results := rfl
@[simp] theorem transmit_requests (f : List Byte) (s : State) : (transmit f s).requests = s.requests := rfl
@[simp] theorem transmit_events (f : List Byte) (s : State) : (transmit f s).events = s.events := rfl
@[simp] theorem transmit_freeIdx (f : List Byte) (s : State) : (transmit f s).freeIdx = s.freeIdx := rfl

@[simp] theorem acceptFrame_cfg (s : State) : (acceptFrame s).cfg = s.cfg := rfl
@[simp] theorem acceptFrame_dec (s : State) : (acceptFrame s).dec = s.dec.resync := rfl
@[simp] theorem acceptFrame_slot (s : State) : (acceptFrame s).slot = s.slot.latch s.dec.command := rfl
@[simp] theorem acceptFrame_txlog (s : State) : (acceptFrame s).txlog = s.txlog := rfl
@[simp] theorem acceptFrame_results (s : State) : (acceptFrame s).results = s.results := rfl
@[simp] theorem acceptFrame_requests (s : State) : (acceptFrame s).requests = s.requests := rfl
@[simp] theorem acceptFrame_events (s : State) : (acceptFrame s).events = s.events ++ [.accepted s.dec.command] := rfl
@[simp] theorem acceptFrame_freeIdx (s : State) : (acceptFrame s).freeIdx = s.freeIdx := rfl

@[simp] theorem rejectFrame_cfg (s : State) : (rejectFrame s).cfg = s.cfg := rfl
@[simp] theorem rejectFrame_dec (s : State) : (rejectFrame s).dec = s.dec.resync := rfl
@[simp] theorem rejectFrame_slot (s : State) : (rejectFrame s).slot = s.slot := rfl
@[simp] theorem rejectFrame_txlog (s : State) : (rejectFrame s).txlog = s.txlog := rfl
@[simp] theorem rejectFrame_results (s : State) : (rejectFrame s).results = s.results := rfl
@[simp] theorem rejectFrame_requests (s : State) : (rejectFrame s).requests = s.requests := rfl
@[simp] theorem rejectFrame_events (s : State) : (rejectFrame s).events = s.events ++ [.checksumMismatch] := rfl
@[simp] theorem rejectFrame_freeIdx (s : State) : (rejectFrame s).freeIdx = s.freeIdx := rfl

@[simp] theorem rejectLength_cfg (b : Byte) (s : State) : (rejectLength b s).cfg = s.cfg := rfl
@[simp] theorem rejectLength_slot (b : Byte) (s : State) : (rejectLength b s).slot = s.slot := rfl
@[simp] theorem rejectLength_txlog (b : Byte) (s : State) : (rejectLength b s).txlog = s.txlog := rfl
@[simp] theorem rejectLength_results (b : Byte) (s : State) : (rejectLength b s).results = s.results := rfl
@[simp] theorem rejectLength_requests (b : Byte) (s : State) : (rejectLength b s).requests = s.requests := rfl
@[simp] theorem rejectLength_events (b : Byte) (s : State) : (rejectLength b s).events = s.events ++ [.lengthOverflow] := rfl
@[simp] theorem rejectLength_freeIdx (b : Byte) (s : State) : (rejectLength b s).freeIdx = s.freeIdx + 1 := rfl

@[simp] theorem stepPayload_cfg (b : Byte) (s : State) : (stepPayload b s).cfg = s.cfg := rfl
@[simp] theorem stepPayload_dec (b : Byte) (s : State) : (stepPayload b s).dec = storePayload b s.dec := rfl
@[simp] theorem stepPayload_slot (b : Byte) (s : State) : (stepPayload b s).slot = s.slot := rfl
@[simp] theorem stepPayload_txlog (b : Byte) (s : State) : (stepPayload b s).txlog = s.txlog := rfl
@[simp] theorem stepPayload_results (b : Byte) (s : State) : (stepPayload b s).results = s.results := rfl
@[simp] theorem stepPayload_requests (b : Byte) (s : State) : (stepPayload b s).requests = s.requests := rfl
@[simp] theorem stepPayload_events (b : Byte) (s : State) : (stepPayload b s).events = s.events := rfl
@[simp] theorem stepPayload_freeIdx (b : Byte) (s : State) : (stepPayload b s).freeIdx = s.freeIdx := rfl

@[simp] theorem rejectLength_dec_state (b : Byte) (s : State) :
    (rejectLength b s).dec.state = .awaitingSync := rfl
@[simp] theorem rejectLength_dec_buf (b : Byte) (s : State) : (rejectLength b s).dec.buf = s.dec.buf := rfl
@[simp] theorem rejectLength_dec_type (b : Byte) (s : State) : (rejectLength b s).dec.type = s.dec.type := rfl

@[simp] theorem Decoder.resync_state (d : Decoder) : (d.resync).state = .awaitingSync := rfl
@[simp] theorem Decoder.resync_cnt (d : Decoder) : (d.resync).cnt = d.cnt := rfl
@[simp] theorem Decoder.resync_sum (d : Decoder) : (d.resync).sum = d.sum := rfl
@[simp] theorem Decoder.resync_type (d : Decoder) : (d.resync).type = d.type := rfl
@[simp] theorem Decoder.resync_len (d : Decoder) : (d.resync).len = d.len := rfl
@[simp] theorem Decoder.resync_buf (d : Decoder) : (d.resync).buf = d.buf := rfl

@[simp] theorem takeLength_state (b : Byte) (d : Decoder) :
    (takeLength b d).state = if b = 0 then .readingChecksum else .readingPayload := rfl
@[simp] theorem takeLength_cnt (b : Byte) (d : Decoder) : (takeLength b d).cnt = 0 := rfl
@[simp] theorem takeLength_sum (b : Byte) (d : Decoder) : (takeLength b d).sum = addSum d.sum b := rfl
@[simp] theorem takeLength_type (b : Byte) (d : Decoder) : (takeLength b d).type = d.type := rfl
@[simp] theorem takeLength_len (b : Byte) (d : Decoder) : (takeLength b d).len = b := rfl
@[simp] theorem takeLength_buf (b : Byte) (d : Decoder) : (takeLength b d).buf = d.buf := rfl

@[simp] theorem storePayload_state (b : Byte) (d : Decoder) :
    (storePayload b d).state = if d.cnt + 1 = d.len then .readingChecksum else .readingPayload := rfl
@[simp] theorem storePayload_cnt (b : Byte) (d : Decoder) : (storePayload b d).cnt = d.cnt + 1 := rfl
@[simp] theorem storePayload_sum (b : Byte) (d : Decoder) : (storePayload b d).sum = addSum d.sum b := rfl
@[simp] theorem storePayload_type (b : Byte) (d : Decoder) : (storePayload b d).type = d.type := rfl
@[simp] theorem storePayload_len (b : Byte) (d : Decoder) : (storePayload b d).len = d.len := rfl
@[simp] theorem storePayload_buf (b : Byte) (d : Decoder) : (storePayload b d).buf = d.buf.set d.cnt.toNat b := rfl

@[simp] theorem Slot.markUnread_type (sl : Slot) : (sl.markUnread).type = sl.type := rfl
@[simp] theorem Slot.markUnread_len (sl : Slot) : (sl.markUnread).len = sl.len := rfl
@[simp] theorem Slot.markUnread_payload (sl : Slot) : (sl.markUnread).payload = sl.payload := rfl
@[simp] theorem Slot.markUnread_unread (sl : Slot) : (sl.markUnread).unread = true := rfl

@[simp] theorem Slot.markTaken_type (sl : Slot) : (sl.markTaken).type = sl.type := rfl
@[simp] theorem Slot.markTaken_len (sl : Slot) : (sl.markTaken).len = sl.len := rfl
@[simp] theorem Slot.markTaken_payload (sl : Slot) : (sl.markTaken).payload = sl.payload := rfl
@[simp] theorem Slot.markTaken_unread (sl : Slot) : (sl.markTaken).unread = false := rfl

@[simp] theorem Slot.latch_type (c : Command) (sl : Slot) : (sl.latch c).type = c.type := rfl
@[simp] theorem Slot.latch_len (c : Command) (sl : Slot) : (sl.latch c).len = c.length := rfl
@[simp] theorem Slot.latch_payload (c : Command) (sl : Slot) : (sl.latch c).payload = c.payload ++ sl.payload.drop c.payload.length := rfl
@[simp] theorem Slot.latch_unread (c : Command) (sl : Slot) : (sl.latch c).unread = true := rfl

@[simp] theorem Decoder.command_type (d : Decoder) : d.command.type = d.type := rfl
@[simp] theorem Decoder.command_length (d : Decoder) : d.command.length = d.len := rfl
@[simp] theorem Decoder.command_payload (d : Decoder) : d.command.payload = d.buf.take d.len.toNat := rfl

@[simp] theorem Decoder.command_resync (d : Decoder) : d.resync.command = d.command := rfl

@[simp] theorem Slot.ready_markTaken (sl : Slot) : sl.markTaken.ready = none := rfl

/-- A slot that has latched a Command with as many payload bytes as its length says, has it ready. -/
theorem Slot.ready_latch (c : Command) (sl : Slot) (h : c.payload.length = c.length.toNat) :
    (sl.latch c).ready = some c := by
  obtain ⟨t, l, p⟩ := c
  simp only at h
  simp [Slot.ready, Slot.command, ← h]

end Sys2Proof.Machine
end

