-- ==== Sys2Proof/Laws/Ops.lean ====
section
/-! SUPPORT. What STEP, INGEST's loop and the per-call reset can do (spec/40_decoder.md R67-R76): their case
equations, their frames, and the invariants they keep. -/

namespace Sys2Proof.Machine

/-! The dispatch of R68, one equation per state. -/

theorem stepByte_awaitingSync {s : State} (h : s.dec.state = .awaitingSync) (b : Byte) :
    stepByte b s = stepAwaitingSync b s := by simp [stepByte, h]

theorem stepByte_type {s : State} (h : s.dec.state = .readingType) (b : Byte) :
    stepByte b s = stepType b s := by simp [stepByte, h]

theorem stepByte_length {s : State} (h : s.dec.state = .readingLength) (b : Byte) :
    stepByte b s = stepLength b s := by simp [stepByte, h]

theorem stepByte_payload {s : State} (h : s.dec.state = .readingPayload) (b : Byte) :
    stepByte b s = stepPayload b s := by simp [stepByte, h]

theorem stepByte_checksum {s : State} (h : s.dec.state = .readingChecksum) (b : Byte) :
    stepByte b s = stepChecksum b s := by simp [stepByte, h]

/-- Everything one byte can do: exactly one of the eight transitions of R69-R76. -/
theorem stepByte_cases (b : Byte) (s : State) :
    (s.dec.state = .awaitingSync ∧ b = syncByte ∧
      stepByte b s = { s with dec := { s.dec with sum := 0, state := .readingType } }) ∨
    (s.dec.state = .awaitingSync ∧ b ≠ syncByte ∧ stepByte b s = s.record .desync) ∨
    (s.dec.state = .readingType ∧ stepByte b s = stepType b s) ∨
    (s.dec.state = .readingLength ∧ s.cfg.cap.val < b.toNat ∧ stepByte b s = rejectLength b s) ∨
    (s.dec.state = .readingLength ∧ b.toNat ≤ s.cfg.cap.val ∧
      stepByte b s = { s with dec := takeLength b s.dec }) ∨
    (s.dec.state = .readingPayload ∧ stepByte b s = stepPayload b s) ∨
    (s.dec.state = .readingChecksum ∧ b = s.dec.sum ∧ stepByte b s = acceptFrame s) ∨
    (s.dec.state = .readingChecksum ∧ b ≠ s.dec.sum ∧ stepByte b s = rejectFrame s) := by
  cases h : s.dec.state with
  | awaitingSync => by_cases hb : b = syncByte <;> simp [stepByte_awaitingSync h, stepAwaitingSync, hb]
  | readingType => simp [stepByte_type h]
  | readingLength =>
    rw [stepByte_length h]
    by_cases hb : s.cfg.cap.val < b.toNat
    · simp [stepLength, hb]
    · simp [stepLength, hb, Nat.le_of_not_lt hb]
  | readingPayload => simp [stepByte_payload h]
  | readingChecksum =>
    by_cases hb : b = s.dec.sum <;> simp [stepByte_checksum h, stepChecksum, checksumMatches, hb]

/-! What no byte changes (R25, R96). -/

/-- STEP leaves the configuration, TXLOG, the results and the pending requests alone. -/
theorem stepByte_frame (b : Byte) (s : State) :
    (stepByte b s).cfg = s.cfg ∧ (stepByte b s).txlog = s.txlog ∧
    (stepByte b s).results = s.results ∧ (stepByte b s).requests = s.requests := by
  obtain ⟨_, _, e⟩ | ⟨_, _, e⟩ | ⟨_, e⟩ | ⟨_, _, e⟩ | ⟨_, _, e⟩ | ⟨_, e⟩ | ⟨_, _, e⟩ | ⟨_, _, e⟩ :=
    stepByte_cases b s <;> rw [e] <;> exact ⟨rfl, rfl, rfl, rfl⟩

@[simp] theorem stepByte_cfg (b : Byte) (s : State) : (stepByte b s).cfg = s.cfg := (stepByte_frame b s).1
@[simp] theorem stepByte_txlog (b : Byte) (s : State) : (stepByte b s).txlog = s.txlog :=
  (stepByte_frame b s).2.1
@[simp] theorem stepByte_results (b : Byte) (s : State) : (stepByte b s).results = s.results :=
  (stepByte_frame b s).2.2.1
@[simp] theorem stepByte_requests (b : Byte) (s : State) : (stepByte b s).requests = s.requests :=
  (stepByte_frame b s).2.2.2

/-- The event one byte adds to the history, if any, and what it says of the slot: it is latched exactly when a
Command is accepted (R75, R102). -/
theorem stepByte_event (b : Byte) (s : State) :
    ((stepByte b s).events = s.events ++ [.accepted s.dec.command] ∧
      (stepByte b s).slot = s.slot.latch s.dec.command ∧ s.dec.state = .readingChecksum) ∨
    (∃ ev, (stepByte b s).events = s.events ++ ev ∧ ev.length ≤ 1 ∧ acceptedIn ev = [] ∧
      (∀ m, ev.foldl mailboxStep m = m) ∧ (stepByte b s).slot = s.slot) := by
  obtain ⟨_, _, e⟩ | ⟨_, _, e⟩ | ⟨_, e⟩ | ⟨_, _, e⟩ | ⟨_, _, e⟩ | ⟨_, e⟩ | ⟨h, _, e⟩ | ⟨_, _, e⟩ :=
    stepByte_cases b s <;> rw [e]
  case inr.inr.inr.inr.inr.inr.inl => exact .inl ⟨rfl, rfl, h⟩
  case inl => exact .inr ⟨[], by simp [acceptedIn]⟩
  case inr.inl => exact .inr ⟨[.desync], by simp [acceptedIn, mailboxStep]⟩
  case inr.inr.inl => exact .inr ⟨[], by simp [acceptedIn, stepType]⟩
  case inr.inr.inr.inl => exact .inr ⟨[.lengthOverflow], by simp [acceptedIn, mailboxStep]⟩
  case inr.inr.inr.inr.inl => exact .inr ⟨[], by simp [acceptedIn]⟩
  case inr.inr.inr.inr.inr.inl => exact .inr ⟨[], by simp [acceptedIn]⟩
  case inr.inr.inr.inr.inr.inr.inr => exact .inr ⟨[.checksumMismatch], by simp [acceptedIn, mailboxStep]⟩

/-! INGEST's loop. -/

@[simp] theorem ingestBytes_nil (s : State) : ingestBytes [] s = s := rfl
@[simp] theorem ingestBytes_cons (b : Byte) (bs : List Byte) (s : State) :
    ingestBytes (b :: bs) s = ingestBytes bs (stepByte b s) := rfl

theorem ingestBytes_append (xs ys : List Byte) (s : State) :
    ingestBytes (xs ++ ys) s = ingestBytes ys (ingestBytes xs s) := by
  induction xs generalizing s with
  | nil => rfl
  | cons b bs ih => exact ih (stepByte b s)

/-- What holds of a state and is kept by every byte holds after any delivery. -/
theorem ingestBytes_induction {P : State → Prop} (hstep : ∀ b s, P s → P (stepByte b s))
    (data : List Byte) (s : State) (h : P s) : P (ingestBytes data s) := by
  induction data generalizing s with
  | nil => exact h
  | cons b bs ih => exact ih _ (hstep b s h)

/-- A value every byte leaves unchanged is unchanged by any delivery. -/
theorem ingestBytes_unchanged {α : Type} {f : State → α} (hstep : ∀ b s, f (stepByte b s) = f s)
    (data : List Byte) (s : State) : f (ingestBytes data s) = f s :=
  ingestBytes_induction (P := fun t => f t = f s) (fun b t h => (hstep b t).trans h) data s rfl

@[simp] theorem ingestBytes_cfg (data : List Byte) (s : State) : (ingestBytes data s).cfg = s.cfg :=
  ingestBytes_unchanged stepByte_cfg data s
@[simp] theorem ingestBytes_txlog (data : List Byte) (s : State) : (ingestBytes data s).txlog = s.txlog :=
  ingestBytes_unchanged stepByte_txlog data s
@[simp] theorem ingestBytes_results (data : List Byte) (s : State) :
    (ingestBytes data s).results = s.results := ingestBytes_unchanged stepByte_results data s
@[simp] theorem ingestBytes_requests (data : List Byte) (s : State) :
    (ingestBytes data s).requests = s.requests := ingestBytes_unchanged stepByte_requests data s

/-- Bytes without SYNC in AwaitingSync are each dropped: only the history grows (R69). -/
theorem ingestBytes_desync (data : List Byte) (s : State) (h : s.dec.state = .awaitingSync)
    (hd : ∀ b ∈ data, b ≠ syncByte) :
    ingestBytes data s = { s with events := s.events ++ List.replicate data.length .desync } := by
  induction data generalizing s with
  | nil => simp
  | cons b bs ih =>
    have hb : b ≠ syncByte := hd b (by simp)
    rw [ingestBytes_cons, stepByte_awaitingSync h, stepAwaitingSync, if_neg hb,
      ih (s.record .desync) h fun x hx => hd x (by simp [hx])]
    simp [State.record, List.replicate_succ]

/-! The per-call reset (R67, R90). -/

theorem perCallReset_cases (s : State) :
    (s.cfg.resetOnDelivery = true ∧ perCallReset s = s.resync) ∨
    (s.cfg.resetOnDelivery = false ∧ perCallReset s = s) := by
  cases h : s.cfg.resetOnDelivery <;> simp [perCallReset, h]

/-- The per-call reset writes DEC_STATE and nothing else. -/
theorem perCallReset_frame (s : State) :
    (perCallReset s).cfg = s.cfg ∧ (perCallReset s).slot = s.slot ∧ (perCallReset s).txlog = s.txlog ∧
    (perCallReset s).results = s.results ∧ (perCallReset s).requests = s.requests ∧
    (perCallReset s).events = s.events ∧ (perCallReset s).freeIdx = s.freeIdx := by
  obtain ⟨_, e⟩ | ⟨_, e⟩ := perCallReset_cases s <;> rw [e] <;> simp

theorem perCallReset_inSync {s : State} (h : s.StartsInSync) :
    (perCallReset s).dec.state = .awaitingSync := by
  obtain ⟨_, e⟩ | ⟨hr, e⟩ := perCallReset_cases s <;> rw [e]
  · rfl
  · simpa [State.StartsInSync, hr] using h

/-! The invariants. -/

/-- In AwaitingSync the decoder's invariant is the size of its buffer. -/
theorem Decoder.ok_of_awaitingSync {cap : Nat} {d : Decoder} (h : d.state = .awaitingSync)
    (hb : d.buf.length = cap) : d.Ok cap where
  bufSize := hb
  typeSum e := by simp [h] at e
  lengthSum e := by simp [h] at e
  payloadLen e := by simp [h] at e
  payloadCnt e := by simp [h] at e
  payloadSum e := by simp [h] at e
  checkLen e := by simp [h] at e
  checkCnt e := by simp [h] at e
  checkSum e := by simp [h] at e

/-- In ReadingPayload: the stored bytes are fewer than LENGTH ≤ CAP, and DEC_SUM is the sum so far. -/
theorem Decoder.ok_of_readingPayload {cap : Nat} {d : Decoder} (h : d.state = .readingPayload)
    (hb : d.buf.length = cap) (hl : d.len.toNat ≤ cap) (hc : d.cnt.toNat < d.len.toNat)
    (hsum : d.sum = sum8 ([d.type, d.len] ++ d.buf.take d.cnt.toNat)) : d.Ok cap where
  bufSize := hb
  typeSum e := by simp [h] at e
  lengthSum e := by simp [h] at e
  payloadLen _ := hl
  payloadCnt _ := hc
  payloadSum _ := hsum
  checkLen e := by simp [h] at e
  checkCnt e := by simp [h] at e
  checkSum e := by simp [h] at e

/-- In ReadingChecksum: LENGTH bytes are stored and DEC_SUM is the sum of all of them (R74). -/
theorem Decoder.ok_of_readingChecksum {cap : Nat} {d : Decoder} (h : d.state = .readingChecksum)
    (hb : d.buf.length = cap) (hl : d.len.toNat ≤ cap) (hc : d.cnt = d.len)
    (hsum : d.sum = sum8 ([d.type, d.len] ++ d.buf.take d.len.toNat)) : d.Ok cap where
  bufSize := hb
  typeSum e := by simp [h] at e
  lengthSum e := by simp [h] at e
  payloadLen e := by simp [h] at e
  payloadCnt e := by simp [h] at e
  payloadSum e := by simp [h] at e
  checkLen _ := hl
  checkCnt _ := hc
  checkSum _ := hsum

theorem Decoder.Ok.resync {cap : Nat} {d : Decoder} (h : d.Ok cap) : d.resync.Ok cap :=
  Decoder.ok_of_awaitingSync rfl h.bufSize

/-- The payload counter does not wrap while a payload byte is due (R73). -/
theorem Decoder.Ok.cnt_succ {cap : Nat} {d : Decoder} (h : d.Ok cap) (hs : d.state = .readingPayload) :
    (d.cnt + 1).toNat = d.cnt.toNat + 1 := by
  have := h.payloadCnt hs
  have := d.len.isLt
  have : (1 : Byte).toNat = 1 := rfl
  rw [BitVec.toNat_add]
  omega

/-- Storing a byte below the old length extends the stored part of DEC_BUF by it (R73). -/
theorem take_succ_set (buf : List Byte) (n : Nat) (b : Byte) (h : n < buf.length) :
    (buf.set n b).take (n + 1) = buf.take n ++ [b] := by
  rw [List.take_add_one, List.getElem?_set_self h, List.take_set_of_le (Nat.le_refl n)]
  rfl

theorem Decoder.Ok.storePayload {cap : Nat} {d : Decoder} (h : d.Ok cap) (hs : d.state = .readingPayload)
    (b : Byte) : (storePayload b d).Ok cap := by
  have hcnt := h.payloadCnt hs
  have hlen := h.payloadLen hs
  have hsucc := h.cnt_succ hs
  have hstore : (d.buf.set d.cnt.toNat b).take (d.cnt.toNat + 1) = d.buf.take d.cnt.toNat ++ [b] :=
    take_succ_set _ _ _ (by have := h.bufSize; omega)
  have hsum : addSum d.sum b =
      sum8 ([d.type, d.len] ++ (d.buf.set d.cnt.toNat b).take (d.cnt + 1).toNat) := by
    rw [h.payloadSum hs, addSum_sum8, hsucc, hstore, List.append_assoc]
  have hbuf : (Machine.storePayload b d).buf.length = cap := by simpa using h.bufSize
  by_cases hl : d.cnt + 1 = d.len
  · exact Decoder.ok_of_readingChecksum (if_pos hl) hbuf hlen hl (by rw [hl] at hsum; exact hsum)
  · have hne : d.cnt.toNat + 1 ≠ d.len.toNat := fun e => hl (BitVec.eq_of_toNat_eq (hsucc.trans e))
    refine Decoder.ok_of_readingPayload (if_neg hl) hbuf hlen ?_ hsum
    show (d.cnt + 1).toNat < d.len.toNat
    omega

theorem Decoder.Ok.takeLength {cap : Nat} {d : Decoder} (h : d.Ok cap) (hs : d.state = .readingLength)
    (b : Byte) (hb : b.toNat ≤ cap) : (takeLength b d).Ok cap := by
  have hsum : addSum d.sum b = sum8 [d.type, b] := by rw [h.lengthSum hs, addSum_sum8]; rfl
  by_cases hz : b = 0
  · subst hz
    exact Decoder.ok_of_readingChecksum rfl h.bufSize hb rfl hsum
  · have hpos : 0 < b.toNat := Nat.pos_of_ne_zero fun e => hz (BitVec.eq_of_toNat_eq e)
    exact Decoder.ok_of_readingPayload (if_neg hz) h.bufSize hb hpos hsum

/-- Every byte keeps the decoder's invariant. -/
theorem stepByte_dec_ok (b : Byte) (s : State) (h : s.dec.Ok s.cfg.cap.val) :
    (stepByte b s).dec.Ok s.cfg.cap.val := by
  obtain ⟨_, _, e⟩ | ⟨_, _, e⟩ | ⟨hs, e⟩ | ⟨_, _, e⟩ | ⟨hs, hb, e⟩ | ⟨hs, e⟩ | ⟨_, _, e⟩ | ⟨_, _, e⟩ :=
    stepByte_cases b s <;> rw [e]
  case inl =>
    exact
      { bufSize := h.bufSize, typeSum := fun _ => rfl
        lengthSum := nofun, payloadLen := nofun, payloadCnt := nofun, payloadSum := nofun
        checkLen := nofun, checkCnt := nofun, checkSum := nofun }
  case inr.inl => exact h
  case inr.inr.inl =>
    exact
      { bufSize := h.bufSize, typeSum := nofun
        lengthSum := fun _ => by
          show addSum s.dec.sum b = sum8 [b]
          rw [h.typeSum hs, addSum_sum8]; rfl
        payloadLen := nofun, payloadCnt := nofun, payloadSum := nofun
        checkLen := nofun, checkCnt := nofun, checkSum := nofun }
  case inr.inr.inr.inl => exact Decoder.ok_of_awaitingSync rfl h.bufSize
  case inr.inr.inr.inr.inl => exact h.takeLength hs b hb
  case inr.inr.inr.inr.inr.inl => exact h.storePayload hs b
  case inr.inr.inr.inr.inr.inr.inl => exact h.resync
  case inr.inr.inr.inr.inr.inr.inr => exact h.resync

/-- While a checksum is awaited, the Command the decoder holds is as long as its length says. -/
theorem Decoder.Ok.command_payload_length {cap : Nat} {d : Decoder} (h : d.Ok cap)
    (hs : d.state = .readingChecksum) : d.command.payload.length = d.command.length.toNat := by
  have := h.checkLen hs
  simp [h.bufSize, this]

/-- Latching a Command that fits keeps the slot's invariant. -/
theorem Slot.Ok.latch {cap : Nat} {sl : Slot} (h : sl.Ok cap) {c : Command}
    (hp : c.payload.length = c.length.toNat) (hc : c.length.toNat ≤ cap) : (sl.latch c).Ok cap where
  payloadSize := by simp [h.payloadSize, hp, hc]
  lenFits _ := hc

/-- Every byte keeps the block's invariant. -/
theorem stepByte_inv (b : Byte) (s : State) (h : s.Inv) : (stepByte b s).Inv where
  dec := by simpa using stepByte_dec_ok b s h.dec
  slot := by
    rw [stepByte_cfg]
    obtain ⟨_, e, hs⟩ | ⟨_, _, _, _, _, e⟩ := stepByte_event b s <;> rw [e]
    · exact h.slot.latch (h.dec.command_payload_length hs) (h.dec.checkLen hs)
    · exact h.slot

theorem ingestBytes_inv (data : List Byte) (s : State) (h : s.Inv) : (ingestBytes data s).Inv :=
  ingestBytes_induction stepByte_inv data s h

theorem State.Inv.perCallReset {s : State} (h : s.Inv) : (perCallReset s).Inv := by
  obtain ⟨_, e⟩ | ⟨_, e⟩ := perCallReset_cases s <;> rw [e]
  · exact ⟨h.dec.resync, h.slot⟩
  · exact h

/-- Clearing SLOT_UNREAD keeps the slot's invariant. -/
theorem Slot.Ok.markTaken {cap : Nat} {sl : Slot} (h : sl.Ok cap) : sl.markTaken.Ok cap where
  payloadSize := h.payloadSize
  lenFits := nofun

end Sys2Proof.Machine
end

