-- ==== Sys2Proof/Laws/Exec.lean ====
section
/-! SUPPORT. What each operation answers (spec/40_decoder.md R67, spec/41_handoff.md R85, R87,
spec/42_encoder.md R92, R93), and what a step can do. -/

namespace Sys2Proof.Machine

theorem exec_ingest (data : List Byte) (s : State) :
    exec (.ingest data) s = .next (ingestBytes data (perCallReset s)) := rfl

theorem exec_resetDecoder (s : State) : exec .resetDecoder s = .next s.resync := rfl

theorem exec_encConfigResponse (index : Byte) (v : Word) (s : State) :
    exec (.encConfigResponse index v) s = .next (transmit (txFrame (configResponseBody index v)) s) := rfl

theorem exec_encCurrentSet (v : Word) (s : State) :
    exec (.encCurrentSet v) s = .next (transmit (txFrame (currentSetBody s.cfg v)) s) := rfl

/-- POLL takes the Command that is ready, or reports none (R85). -/
theorem exec_poll_cases (s : State) :
    (s.slot.unread = true ∧
      exec .poll s = .next ((takeReady s.slot.command s).report (some s.slot.command))) ∨
    (s.slot.unread = false ∧ exec .poll s = .next (s.report none)) := by
  cases h : s.slot.unread <;> simp [exec, execPoll, Slot.ready, h]

/-- Everything a step can do: wait, refuse a request outside the interface format, or run one operation. -/
theorem step_cases (s : State) :
    (s.requests = [] ∧ step s = .next s) ∨
    (∃ r rest why, s.requests = r :: rest ∧ decode s.cfg r = .error why ∧
      step s = .refused (.inadmissible why)) ∨
    (∃ r rest i, s.requests = r :: rest ∧ decode s.cfg r = .ok i ∧
      step s = exec i { s with requests := rest }) := by
  cases hr : s.requests with
  | nil => simp [step, nextRequest, hr]
  | cons r rest =>
    cases hd : decode s.cfg r with
    | error why => exact .inr (.inl ⟨r, rest, why, rfl, hd, by simp [step, nextRequest, hr, hd]⟩)
    | ok i => exact .inr (.inr ⟨r, rest, i, rfl, hd, by simp [step, nextRequest, hr, hd]⟩)

end Sys2Proof.Machine
end

