-- ==== Sys2Proof/Laws/PerInstr.lean ====
section
/-! SUPPORT. Family `EncodedFields`: the header an operation is issued with carries its OP code and RSV = 0, and
passes the admission check of spec/30_encoding.md R58. -/

namespace Sys2Proof.Laws.EncodedFields

/-- The fields of the encoded header, and its admission. -/
def Statement (i : Instr) : Prop :=
  ∀ a, reqOp (encode a i).header = i.op ∧ reqRsv (encode a i).header = 0 ∧
    headerAdmitted (encode a i).header = true

theorem ingest (data : List Byte) : Statement (.ingest data) := fun a => by
  simp [encode, headerAdmitted, Instr.op, Instr.idx]

theorem poll : Statement .poll := fun a => by
  simp [encode, headerAdmitted, Instr.op, Instr.idx, Instr.arg]

theorem encConfigResponse (index : Byte) (v : Word) : Statement (.encConfigResponse index v) := fun a => by
  simp [encode, headerAdmitted, Instr.op]

theorem encCurrentSet (v : Word) : Statement (.encCurrentSet v) := fun a => by
  simp [encode, headerAdmitted, Instr.op, Instr.idx]

theorem resetDecoder : Statement .resetDecoder := fun a => by
  simp [encode, headerAdmitted, Instr.op, Instr.idx, Instr.arg]

end Sys2Proof.Laws.EncodedFields
end

