-- ==== Sys2Proof/Laws/Run.lean ====
section
/-! SUPPORT. Runs of several steps: the induction over them, once, and the step on a pending operation. -/

namespace Sys2Proof.Machine

theorem safeRun_zero (s t : State) : SafeRun 0 s t ↔ s = t := by
  constructor
  · intro h
    cases h
    rfl
  · intro h
    subst h
    rfl

/-- One more step at the front of a run, for any machine of the host's interface. -/
theorem run_succ_next (M : Host.Core) (k : Nat) (s t : M.State) :
    M.run (k + 1) s = .next t ↔ ∃ u, M.step s = .next u ∧ M.run k u = .next t := by
  rw [Host.Core.run]
  cases M.step s with
  | next u => simp
  | fault r => simp
  | refused r => simp

theorem safeRun_succ (k : Nat) (s t : State) :
    SafeRun (k + 1) s t ↔ ∃ u, step s = .next u ∧ SafeRun k u t :=
  run_succ_next Sys2Proof.core k s t

/-- What every step keeps holds at the end of every safe run. -/
theorem SafeRun.induction {P : State → Prop} (hstep : ∀ s t, P s → step s = .next t → P t) {k : Nat}
    {s t : State} (h : P s) (hr : SafeRun k s t) : P t := by
  induction k generalizing s with
  | zero => exact (safeRun_zero s t).1 hr ▸ h
  | succ k ih =>
    obtain ⟨u, hu, hr⟩ := (safeRun_succ k s t).1 hr
    exact ih (hstep s u h hu) hr

/-- A step on a pending request that decodes to an operation is that operation on the rest. -/
theorem step_of_decode {s : State} {r : Request} {rest : List Request} {i : Instr}
    (hr : s.requests = r :: rest) (hd : decode s.cfg r = .ok i) :
    step s = exec i { s with requests := rest } := by
  simp [step, nextRequest, hr, hd]

end Sys2Proof.Machine
end

