-- ==== Sys2Proof/Tests/Slice0.lean ====
section
/-! SUPPORT. The model's own tests (expected values from spec/95_test_vectors.md and the rules' own examples),
and, for every statement with hypotheses, concrete values that meet them all. -/

namespace Sys2Proof.Tests

open Sys2Proof.Machine

/-! ## Helpers -/

/-- This hardware with another payload capacity and another per-call reset policy. -/
def config (cap : Fin 256) (resets : Bool) : Config :=
  { Config.hardware with cap := cap, resetOnDelivery := resets }

/-- The state an operation leads to. -/
def after (i : Instr) (s : State) : Option State :=
  match exec i s with
  | .next t => some t
  | .fault _ => none
  | .refused _ => none

/-- The Command ready after one INGEST from reset, with capacity `cap`. -/
def readyAfter (cap : Fin 256) (data : List Byte) : Option Command :=
  (after (.ingest data) (State.resetWith (config cap true))).bind fun t => t.slot.ready

/-- The decoder after one INGEST from reset, with capacity 4. -/
def opened (resets : Bool) (data : List Byte) : State :=
  ingestBytes data (State.resetWith (config 4 resets))

/-! ## WellFormed: terms the check refuses -/

theorem test_wf_refuses_long_delivery :
    (Instr.ingest [0, 0, 0]).wf { Config.hardware with maxDelivery := 2 } = false := by decide

theorem test_wf_accepts_delivery_at_limit :
    (Instr.ingest [0, 0]).wf { Config.hardware with maxDelivery := 2 } = true := by decide

theorem test_wf_refuses_delivery_over_32_bits :
    (Instr.ingest (List.replicate 4294967296 0)).wf Config.hardware = false := by
  have h : ¬ 4294967296 ≤ Config.hardware.maxDelivery.val := by decide
  simp only [Instr.wf, List.length_replicate, h, decide_false]

/-! ## Decoding: header words written out from R57 (ARG, IDX, RSV and OP) -/

theorem test_decode_ingest :
    decode Config.hardware ⟨.receive, 0b000000000000000000000000000000100000000000000000#48, [0x13, 0xAA]⟩ =
      .ok (.ingest [0x13, 0xAA]) := by decide

theorem test_decode_poll :
    decode Config.hardware ⟨.application, 0b000000000000000000000000000000000000000000000001#48, []⟩ =
      .ok .poll := by decide

theorem test_decode_encConfigResponse :
    decode Config.hardware ⟨.application, 0b000100100011010001010110011110001010101000000010#48, []⟩ =
      .ok (.encConfigResponse 0xAA 0x12345678) := by decide

theorem test_decode_encCurrentSet :
    decode Config.hardware ⟨.application, 0b100000000000000000000000000000010000000000000011#48, []⟩ =
      .ok (.encCurrentSet 0x80000001) := by decide

theorem test_decode_resetDecoder :
    decode Config.hardware ⟨.receive, 0b000000000000000000000000000000000000000000000100#48, []⟩ =
      .ok .resetDecoder := by decide

/-- X-1, the two other reserved codes, X-2, X-3, X-4, X-5. -/
theorem test_decode_refusals :
    decode Config.hardware ⟨.receive, 0x000000000005, []⟩ = .error (.reservedOp 5) ∧
    decode Config.hardware ⟨.receive, 0x000000000006, []⟩ = .error (.reservedOp 6) ∧
    decode Config.hardware ⟨.receive, 0x000000000007, []⟩ = .error (.reservedOp 7) ∧
    decode Config.hardware ⟨.application, 0x000000000009, []⟩ = .error (.reservedBits 1) ∧
    decode Config.hardware ⟨.application, 0x000000000101, []⟩ = .error (.strayIndex 1) ∧
    decode Config.hardware ⟨.receive, 0x000000010004, []⟩ = .error (.strayArg 1) ∧
    decode Config.hardware ⟨.application, 0x3FC000000103, []⟩ = .error (.strayIndex 1) := by decide

/-- Headers of 95_test_vectors.md P1 and P3. -/
theorem test_encode_headers :
    (encode .receive (.ingest [0xAA, 0x02, 0x00, 0x02])).header = 0x000000040000 ∧
    (encode .application .poll).header = 0x000000000001 ∧
    (encode .application (.encConfigResponse 3 0x3FC00000)).header = 0x3FC000000302 ∧
    (encode .application (.encCurrentSet 0x3FC00000)).header = 0x3FC000000003 ∧
    (encode .receive .resetDecoder).header = 0x000000000004 := by decide

/-- Table words: the second data byte stands in bits 63..56. -/
theorem test_decodeTableWord :
    decodeTableWord 48 0 = some (.ingest []) ∧
    decodeTableWord 64 0xAA13000000020000 = some (.ingest [0x13, 0xAA]) ∧
    decodeTableWord 48 0x000000020000 = some (.ingest [0, 0]) ∧
    decodeTableWord 48 1 = some .poll ∧
    decodeTableWord 48 0x3FC000000302 = some (.encConfigResponse 3 0x3FC00000) ∧
    decodeTableWord 48 0x3FC000000003 = some (.encCurrentSet 0x3FC00000) ∧
    decodeTableWord 48 4 = some .resetDecoder ∧
    decodeTableWord 48 5 = none := by decide

/-- The very next step after `withFetchWord` runs the word: ENC_CURRENT_SET 0 sends E-6. -/
theorem test_step_runs_fetchWord :
    (match step (State.reset.withFetchWord 48 3) with
      | .next t => some t.txlog
      | .fault _ => none
      | .refused _ => none) = some [[0xAA, 0x05, 0x00, 0x00, 0x00, 0x00, 0x05]] := by decide

/-! ## One step of each operation -/

/-- D-2, D-3, D-4, D-5, D-6, D-7, D-8, D-12, D-13, D-18, D-19. -/
theorem test_ingest_vectors :
    readyAfter 16 [0xAA, 0x00, 0x05, 0x01, 0x00, 0x00, 0xC0, 0x3F, 0x05] =
      some ⟨0x00, 5, [0x01, 0x00, 0x00, 0xC0, 0x3F]⟩ ∧
    readyAfter 16 [0xAA, 0x01, 0x02, 0xAA, 0xAA, 0x57] = some ⟨0x01, 2, [0xAA, 0xAA]⟩ ∧
    readyAfter 16 [0xAA, 0xA9, 0x01, 0x00, 0xAA] = some ⟨0xA9, 1, [0x00]⟩ ∧
    readyAfter 16 [0xAA, 0x02, 0x00, 0x03] = none ∧
    readyAfter 16 [0xAA, 0x02, 0x00, 0xAA, 0x02, 0x00, 0x02] = none ∧
    readyAfter 16 [0xAA, 0x02, 0x00, 0xAA, 0xAA, 0x02, 0x00, 0x02] = some ⟨0x02, 0, []⟩ ∧
    readyAfter 16 [0xAA, 0x02, 0x00, 0x02, 0xAA, 0x00, 0x00, 0x00] = some ⟨0x00, 0, []⟩ ∧
    readyAfter 16 [0xAA, 0xAA, 0x00, 0xAA] = some ⟨0xAA, 0, []⟩ ∧
    readyAfter 16 [0xAA, 0xAA, 0x02, 0x00, 0x02] = none ∧
    readyAfter 16 [0xAA, 0x03, 0x03, 0x00, 0x00, 0xC0, 0x3F, 0x05] = none ∧
    readyAfter 16 [0xAA, 0x03, 0x05, 0x03, 0x00, 0x00, 0xC0, 0x3F, 0x0A] =
      some ⟨0x03, 5, [0x03, 0x00, 0x00, 0xC0, 0x3F]⟩ := by decide

/-- D-15 (CAP = 255), D-21, a length of CAP exactly, one above it, D-23, D-24. -/
theorem test_ingest_capacity :
    readyAfter 255 ([0xAA, 0x00, 0xFF] ++ List.replicate 255 0x01 ++ [0xFE]) =
      some ⟨0x00, 255, List.replicate 255 0x01⟩ ∧
    readyAfter 16 [0xAA, 0x00, 0x11, 0xAA, 0x02, 0x00, 0x02] = some ⟨0x02, 0, []⟩ ∧
    readyAfter 2 [0xAA, 0x00, 0x02, 0x01, 0x02, 0x05] = some ⟨0x00, 2, [0x01, 0x02]⟩ ∧
    readyAfter 1 [0xAA, 0x00, 0x02, 0x01, 0x02, 0x05] = none ∧
    readyAfter 0 [0xAA, 0x05, 0x00, 0x05] = some ⟨0x05, 0, []⟩ ∧
    readyAfter 0 [0xAA, 0x05, 0x01, 0x00, 0x06] = none := by decide +kernel

/-- D-13's end: DEC_STATE, DEC_TYPE, DEC_LEN, DEC_CNT, DEC_SUM. -/
theorem test_step_partial_frame :
    let d := (opened true [0xAA, 0xAA, 0x02, 0x00, 0x02]).dec
    d.state = .readingChecksum ∧ d.type = 0xAA ∧ d.len = 2 ∧ d.cnt = 2 ∧ d.sum = 0xAE := by decide

/-- H-5: the record of the second POLL, the slot still holding the stale bytes 02 03. -/
theorem test_poll_returns_length_bytes :
    ((after .poll (ingestBytes [0xAA, 0x00, 0x01, 0x09, 0x0A]
      (opened true [0xAA, 0x00, 0x03, 0x01, 0x02, 0x03, 0x09]))).map fun t =>
        (t.results, t.slot.payload, t.slot.unread)) =
      some ([[0x01, 0x00, 0x01, 0x09]], [0x09, 0x02, 0x03, 0x00], false) := by decide

/-- H-1. -/
theorem test_poll_none_from_reset :
    ((after .poll (State.resetWith (config 4 true))).map fun t => (t.results, t.slot.unread)) =
      some ([[0x00]], false) := by decide

/-- E-1 and E-4. -/
theorem test_encConfigResponse :
    ((after (.encConfigResponse 3 0x3FC00000) (opened true [])).map fun t => t.txlog) =
      some [[0xAA, 0x03, 0x03, 0x00, 0x00, 0xC0, 0x3F, 0x05]] ∧
    ((after (.encConfigResponse 0xAA 0x12345678) (opened true [])).map fun t => t.txlog) =
      some [[0xAA, 0x03, 0xAA, 0x78, 0x56, 0x34, 0x12, 0xC1]] := by decide

/-- E-5, E-7, E-8. -/
theorem test_encCurrentSet :
    ((after (.encCurrentSet 0x3FC00000) (opened true [])).map fun t => t.txlog) =
      some [[0xAA, 0x05, 0x00, 0x00, 0xC0, 0x3F, 0x04]] ∧
    ((after (.encCurrentSet 0xAAAAAAAA) (opened true [])).map fun t => t.txlog) =
      some [[0xAA, 0x05, 0xAA, 0xAA, 0xAA, 0xAA, 0xAD]] ∧
    ((after (.encCurrentSet 0x80000000) (opened true [])).map fun t => t.txlog) =
      some [[0xAA, 0x05, 0x00, 0x00, 0x00, 0x80, 0x85]] := by decide

/-- H-6 and H-7: a partial frame is discarded, an accepted Command is kept. -/
theorem test_resetDecoder :
    ((after .resetDecoder (opened false [0xAA, 0x02])).map fun t => t.dec.state) = some .awaitingSync ∧
    ((after .resetDecoder (opened false [0xAA, 0x02, 0x00, 0x02])).map fun t => t.slot.ready) =
      some (some ⟨0x02, 0, []⟩) := by decide

/-! ## Values that meet the hypotheses of the statements -/

theorem isReset_resetWith (c : Config) : (State.resetWith c).IsReset c := by
  constructor <;> simp [State.resetWith]

theorem inv_resetWith (c : Config) : (State.resetWith c).Inv where
  dec := Decoder.ok_of_awaitingSync rfl (by simp [State.resetWith])
  slot := ⟨by simp [State.resetWith], nofun⟩

theorem inv_opened (resets : Bool) (data : List Byte) : (opened resets data).Inv :=
  ingestBytes_inv data _ (inv_resetWith _)

/-- A block that has accepted AA 02 00 02 and has these requests pending. -/
def pending (ops : List Instr) : State :=
  { opened true [0xAA, 0x02, 0x00, 0x02] with requests := ops.map (encode .application) }

theorem inv_pending (ops : List Instr) : (pending ops).Inv :=
  ⟨(inv_opened true _).dec, (inv_opened true _).slot⟩

theorem mailboxOk_pending (ops : List Instr) : (pending ops).MailboxOk := by
  show (opened true [0xAA, 0x02, 0x00, 0x02]).slot.ready = mailbox (opened true [0xAA, 0x02, 0x00, 0x02]).events
  decide

/-- One pending operation is one safe step to that operation's next state. -/
theorem safeRun_one {s t : State} {i : Instr} {a : Agent} (hr : s.requests = [encode a i])
    (hd : decode s.cfg (encode a i) = .ok i) (he : exec i { s with requests := [] } = .next t) :
    SafeRun 1 s t :=
  (safeRun_succ 0 s t).2 ⟨t, (step_of_decode hr hd).trans he, (safeRun_zero t t).2 rfl⟩

theorem safeRun_poll : ∃ t, SafeRun 1 (pending [.poll]) t :=
  ⟨_, safeRun_one (a := .application) (i := .poll) rfl (by decide) rfl⟩

theorem witness_ResetMeetsInvariants : State.reset.IsReset Config.hardware := isReset_resetWith _

theorem witness_StepKeepsInvariant : (pending [.poll]).Inv ∧ ∃ t, step (pending [.poll]) = .next t := by
  refine ⟨inv_pending _, ?_⟩
  obtain ⟨t, h⟩ := safeRun_poll
  obtain ⟨u, hu, _⟩ := (safeRun_succ 0 _ t).1 h
  exact ⟨u, hu⟩

theorem witness_StepKeepsMailbox :
    (pending [.poll]).Inv ∧ (pending [.poll]).MailboxOk ∧ ∃ t, step (pending [.poll]) = .next t :=
  ⟨inv_pending _, mailboxOk_pending _, witness_StepKeepsInvariant.2⟩

theorem witness_ConfigurationNeverChanges : ∃ t, SafeRun 1 (pending [.poll]) t := safeRun_poll

theorem witness_StepRunsDecodedRequest :
    (pending [.poll]).requests = encode .application .poll :: [] ∧
    decode (pending [.poll]).cfg (encode .application .poll) = .ok .poll ∧
    Instr.poll.wf (pending [.poll]).cfg = true := ⟨rfl, by decide, rfl⟩

theorem witness_StepWithoutRequestWaits : State.reset.requests = [] := rfl

/-- An admitted header (INGEST of no byte) and one that is not (OP = 5). -/
theorem witness_RequestRunsExactlyWhenAdmitted (h : Header) (hh : h = 0 ∨ h = 5) :
    (([] : List Byte).length = if h.extractLsb' 0 3 = 0 then (h.extractLsb' 16 32).toNat else 0) ∧
    ([] : List Byte).length ≤ (State.reset.withFetchWord 48 h.toNat).cfg.maxDelivery.val ∧
    (State.reset.withFetchWord 48 h.toNat).requests.map (fun r => (r.header, r.data)) = [(h, [])] := by
  rcases hh with rfl | rfl <;> decide

/-- One data byte where the header says none; and three bytes where MAX_DELIVERY is 2. -/
theorem witness_DataOfWrongLengthRefused :
    ([0x13] : List Byte).length ≠
      (if (0x000000000001 : Header).extractLsb' 0 3 = 0
        then ((0x000000000001 : Header).extractLsb' 16 32).toNat else 0) ∧
    ({ Config.hardware with maxDelivery := 2 } : Config).maxDelivery.val < ([1, 2, 3] : List Byte).length := by
  decide

theorem witness_DecodeOfEncode :
    (Instr.ingest [1, 2]).wf { Config.hardware with maxDelivery := 2 } = true := by decide

theorem witness_EncodeOfDecode :
    decode Config.hardware ⟨.application, 0x3FC000000302, []⟩ = .ok (.encConfigResponse 3 0x3FC00000) := by
  decide

theorem witness_OpcodeTableAgreesWithDecoder :
    decode Config.hardware ⟨.receive, 0x000000000004, []⟩ = .ok .resetDecoder := by decide

theorem witness_IngestDeliversBytesInOrder :
    ([1, 2] : List Byte).length ≤ ({ Config.hardware with maxDelivery := 2 } : Config).maxDelivery.val ∧
    State.reset.IsReset Config.hardware := ⟨by decide, isReset_resetWith _⟩

/-- Every row of the table, at the boundary values of LENGTH (0, 1, CAP = 4, 5) and of DEC_CNT. -/
theorem witness_StepFollowsTransitionTable :
    (∀ data, (opened true data).Inv) ∧
    (opened true []).dec.state = .awaitingSync ∧
    (opened true [0xAA]).dec.state = .readingType ∧
    (opened true [0xAA, 0]).dec.state = .readingLength ∧ (opened true [0xAA, 0]).cfg.cap.val < (5 : Byte).toNat ∧
    1 ≤ (1 : Byte).toNat ∧ (4 : Byte).toNat ≤ (opened true [0xAA, 0]).cfg.cap.val ∧
    (opened true [0xAA, 0, 2]).dec.state = .readingPayload ∧
    (opened true [0xAA, 0, 2]).dec.cnt.toNat + 1 < (opened true [0xAA, 0, 2]).dec.len.toNat ∧
    (opened true [0xAA, 0, 2, 9]).dec.state = .readingPayload ∧
    (opened true [0xAA, 0, 2, 9]).dec.cnt.toNat + 1 = (opened true [0xAA, 0, 2, 9]).dec.len.toNat ∧
    (opened true [0xAA, 0, 0]).dec.state = .readingChecksum :=
  ⟨inv_opened true, by decide⟩

theorem witness_StepInAwaitingSync : (opened true []).dec.state = .awaitingSync := by decide

theorem witness_StepInReadingType : (opened true [0xAA]).dec.state = .readingType := by decide

/-- LENGTH 0 and LENGTH CAP. -/
theorem witness_StepInReadingLength :
    (opened true [0xAA, 0]).dec.state = .readingLength ∧
    (0 : Byte).toNat ≤ (opened true [0xAA, 0]).cfg.cap.val ∧
    (4 : Byte).toNat ≤ (opened true [0xAA, 0]).cfg.cap.val := by decide

/-- LENGTH CAP + 1; and a block with CAP = 16. -/
theorem witness_StepOnLengthOverflow :
    (opened true [0xAA, 0]).dec.state = .readingLength ∧
    (opened true [0xAA, 0]).cfg.cap.val < (5 : Byte).toNat ∧
    (State.resetWith (config 16 true)).cfg.cap.val = 16 ∧ (State.resetWith (config 16 true)).StartsInSync :=
  ⟨by decide, by decide, by decide, .inl rfl⟩

/-- The last payload byte and one that is not the last. -/
theorem witness_StepInReadingPayload :
    (opened true [0xAA, 0, 2]).dec.state = .readingPayload ∧
    (opened true [0xAA, 0, 2]).dec.cnt + 1 ≠ (opened true [0xAA, 0, 2]).dec.len ∧
    (opened true [0xAA, 0, 2, 9]).dec.state = .readingPayload ∧
    (opened true [0xAA, 0, 2, 9]).dec.cnt + 1 = (opened true [0xAA, 0, 2, 9]).dec.len ∧
    (opened true [0xAA, 0, 2]).Inv := ⟨by decide, by decide, by decide, by decide, inv_opened _ _⟩

/-- DEC_LEN = 0 and DEC_LEN = CAP. -/
theorem witness_StepAcceptsMatchingChecksum :
    (∀ data, (opened true data).Inv) ∧
    (opened true [0xAA, 2, 0]).dec.state = .readingChecksum ∧ 2 = (opened true [0xAA, 2, 0]).dec.sum ∧
    (opened true [0xAA, 0, 4, 1, 2, 3, 4]).dec.state = .readingChecksum ∧
    14 = (opened true [0xAA, 0, 4, 1, 2, 3, 4]).dec.sum := ⟨inv_opened true, by decide⟩

theorem witness_StepRejectsOtherChecksum :
    (opened true [0xAA, 2, 0]).dec.state = .readingChecksum ∧ 0xAA ≠ (opened true [0xAA, 2, 0]).dec.sum := by
  decide

theorem witness_RunningSumCoversFrame :
    (State.resetWith (config 4 true)).Inv ∧ ∃ t,
      exec (.ingest [0xAA, 0, 4, 1, 2, 3, 4]) (State.resetWith (config 4 true)) = .next t ∧
      t.dec.state = .readingChecksum := ⟨inv_resetWith _, _, rfl, by decide⟩

theorem witness_EmptyDelivery :
    (opened true [0xAA, 2]).cfg.resetOnDelivery = true ∧ (opened false [0xAA, 2]).cfg.resetOnDelivery = false := by
  decide

theorem witness_ChunkingInvisibleWithoutReset :
    (opened false []).cfg.resetOnDelivery = false ∧
    ∀ d ∈ ([[0xAA, 2], [], [0, 2]] : List (List Byte)), d.length ≤ (opened false []).cfg.maxDelivery.val := by
  decide

/-- A payload of CAP bytes: with the per-call reset in the middle of a frame, and without it in AwaitingSync. -/
theorem witness_DeliveredFrameIsAccepted :
    (opened true [0xAA, 2]).Inv ∧ (opened true [0xAA, 2]).StartsInSync ∧
    (opened false []).Inv ∧ (opened false []).StartsInSync ∧
    ([1, 2, 3, 4] : List Byte).length ≤ (opened true [0xAA, 2]).cfg.cap.val ∧
    ([1, 2, 3, 4] : List Byte).length ≤ (opened false []).cfg.cap.val :=
  ⟨inv_opened _ _, .inl (by decide), inv_opened _ _, .inr (by decide), by decide, by decide⟩

theorem witness_DeliveredFrameIsPolled :
    (pending [ingestFrame 7 [1, 2, 3, 4], .poll]).Inv ∧
    (pending [ingestFrame 7 [1, 2, 3, 4], .poll]).StartsInSync ∧
    ([1, 2, 3, 4] : List Byte).length ≤ (pending []).cfg.cap.val ∧
    ([1, 2, 3, 4] : List Byte).length + 4 ≤ (pending []).cfg.maxDelivery.val ∧
    (pending [ingestFrame 7 [1, 2, 3, 4], .poll]).requests =
      encode .application (ingestFrame 7 [1, 2, 3, 4]) :: encode .application .poll :: [] :=
  ⟨inv_pending _, .inl (by decide), by decide, by decide, rfl⟩

theorem witness_LastAcceptedFrameSurvives : (opened true []).Inv := inv_opened _ _

theorem witness_FramesBackToBackAllAccepted :
    (opened true []).Inv ∧ (opened true []).StartsInSync ∧
    ∀ f ∈ ([(2, []), (7, [1, 2, 3, 4])] : List (Byte × List Byte)), f.2.length ≤ (opened true []).cfg.cap.val :=
  ⟨inv_opened _ _, .inl (by decide), by decide⟩

theorem witness_AcceptedCommandsWereDelivered :
    (opened true []).Inv ∧ (opened true []).StartsInSync ∧ ∃ u,
      exec (.ingest [0x13, 0xAA, 7, 1, 9, 17]) (opened true []) = .next u ∧
      u.events = (opened true []).events ++ [.desync, .accepted ⟨7, 1, [9]⟩] ∧
      (⟨7, 1, [9]⟩ : Command) ∈ acceptedIn [.desync, .accepted ⟨7, 1, [9]⟩] :=
  ⟨inv_opened _ _, .inl (by decide), _, rfl, by decide, by decide⟩

/-- TYPE, the first and the last payload byte, and CHECKSUM of a frame with CAP payload bytes. -/
theorem witness_OneChangedByteIsDetected :
    (opened true []).Inv ∧ (opened true []).StartsInSync ∧
    ([1, 2, 3, 4] : List Byte).length ≤ (opened true []).cfg.cap.val ∧
    ∀ j ∈ [1, 3, 6, 7], j < (rxFrame 7 [1, 2, 3, 4]).length ∧ j ≠ 0 ∧ j ≠ 2 ∧
      (rxFrame 7 [1, 2, 3, 4])[j]? ≠ some 0xAA := ⟨inv_opened _ _, .inl (by decide), by decide, by decide⟩

/-- D-11: 01 02 and 02 01. -/
theorem witness_ChecksumBlindToCancellingChanges :
    (opened true []).Inv ∧ (opened true []).StartsInSync ∧
    ([1, 2] : List Byte).length ≤ (opened true []).cfg.cap.val ∧
    ([2, 1] : List Byte).length = ([1, 2] : List Byte).length ∧ sum8 [2, 1] = sum8 [1, 2] ∧
    ([2, 1] : List Byte).Perm [1, 2] := ⟨inv_opened _ _, .inl (by decide), by decide, by decide, by decide, by decide⟩

/-- A pending INGEST of a list short enough runs in one step. -/
theorem step_ingest {s : State} {data : List Byte} {rest : List Request}
    (hr : s.requests = encode .receive (.ingest data) :: rest)
    (hd : decode s.cfg (encode .receive (.ingest data)) = .ok (.ingest data)) :
    step s = .next (ingestBytes data (perCallReset { s with requests := rest })) := step_of_decode hr hd

/-- S-1, under both policies. -/
theorem witness_SplitFrameNeverAccepted (resets : Bool) :
    let s : State := { opened resets [] with
      requests := [[0xAA, 2], [0, 2]].map fun d => encode .receive (.ingest d) }
    s.Inv ∧ ([] : List Byte).length ≤ s.cfg.cap.val ∧
    (∀ d ∈ ([[0xAA, 2], [0, 2]] : List (List Byte)), d ≠ [] ∧ d.length ≤ s.cfg.maxDelivery.val) ∧
    2 ≤ ([[0xAA, 2], [0, 2]] : List (List Byte)).length ∧
    ([[0xAA, 2], [0, 2]] : List (List Byte)).flatten = rxFrame 2 [] ∧
    s.dec.state = .awaitingSync ∧ (∃ u ev, SafeRun 2 s u ∧ u.events = s.events ++ ev) := by
  refine ⟨⟨(inv_opened _ _).dec, (inv_opened _ _).slot⟩, by simp, ?_, by decide, by decide, by cases resets <;> decide, ?_⟩
  · cases resets <;> decide
  · have h1 := step_ingest (s := { opened resets [] with
        requests := [[0xAA, 2], [0, 2]].map fun d => encode .receive (.ingest d) }) (data := [0xAA, 2])
        (rest := [encode .receive (.ingest [0, 2])]) rfl (by cases resets <;> decide)
    have h2 := step_ingest (s := ingestBytes [0xAA, 2] (perCallReset { opened resets [] with
        requests := [encode .receive (.ingest [0, 2])] })) (data := [0, 2]) (rest := [])
        (by cases resets <;> rfl) (by cases resets <;> decide)
    exact ⟨_, State.events _, (safeRun_succ 1 _ _).2 ⟨_, h1, (safeRun_succ 0 _ _).2 ⟨_, h2,
      (safeRun_zero _ _).2 rfl⟩⟩, rfl⟩

/-- L1-7. -/
theorem witness_StrayBytesBeforeFrameHarmless :
    (opened true []).StartsInSync ∧ (∀ b ∈ ([0x00, 0xFF, 0x13] : List Byte), b ≠ 0xAA) ∧
    (∃ u, exec (.ingest [0xAA, 2, 0, 2]) (opened true []) = .next u) ∧
    ∃ v, exec (.ingest ([0x00, 0xFF, 0x13] ++ [0xAA, 2, 0, 2])) (opened true []) = .next v :=
  ⟨.inl (by decide), by decide, ⟨_, rfl⟩, ⟨_, rfl⟩⟩

theorem witness_StraySyncSwallowsFrame :
    (State.resetWith (config 2 true)).Inv ∧ (State.resetWith (config 2 true)).StartsInSync ∧
    2 ≤ (State.resetWith (config 2 true)).cfg.cap.val := ⟨inv_resetWith _, .inl rfl, by decide⟩

theorem witness_ExampleConfigResponseIsRejectedByDecoder :
    (State.resetWith (config 3 true)).Inv ∧ (State.resetWith (config 3 true)).StartsInSync ∧
    3 ≤ (State.resetWith (config 3 true)).cfg.cap.val := ⟨inv_resetWith _, .inl rfl, by decide⟩

theorem witness_AcceptedFramesAreBounded :
    (opened true []).Inv ∧ (opened true []).StartsInSync ∧ ∃ u,
      exec (.ingest [0xAA, 2, 0, 2, 0xAA, 0, 0, 0]) (opened true []) = .next u ∧
      u.events = (opened true []).events ++ [.accepted ⟨2, 0, []⟩, .accepted ⟨0, 0, []⟩] :=
  ⟨inv_opened _ _, .inl (by decide), _, rfl, by decide⟩

theorem witness_IngestFrame : ∃ u, exec (.ingest [0xAA, 2, 0, 3]) (opened true []) = .next u := ⟨_, rfl⟩

/-- k is the length of the one accepted frame. -/
theorem witness_PayloadTailIsKept :
    (opened true []).Inv ∧ ∃ u, exec (.ingest [0xAA, 7, 1, 9, 17]) (opened true []) = .next u ∧
      u.events = (opened true []).events ++ [.accepted ⟨7, 1, [9]⟩] ∧
      ∀ c ∈ acceptedIn [.accepted ⟨7, 1, [9]⟩], c.length.toNat ≤ 1 := ⟨inv_opened _ _, _, rfl, by decide, by decide⟩

theorem witness_PollTakesReadyCommand :
    (pending []).slot.unread = true ∧ State.reset.slot.unread = false ∧ State.reset.IsReset Config.hardware :=
  ⟨by decide, rfl, isReset_resetWith _⟩

/-- No POLL, and two of them, with and without a Command ready. -/
theorem witness_RepeatedPollIsIdempotent :
    (pending []).requests = List.replicate 0 (encode .application .poll) ++ [] ∧
    (pending [.poll, .poll]).requests = List.replicate 2 (encode .application .poll) ++ [] ∧
    (pending [.poll, .poll]).slot.unread = true ∧ 2 = 1 + 1 ∧
    (State.reset.withFetchWord 48 1).requests = List.replicate 1 (encode .application .poll) ++ [] ∧
    (State.reset.withFetchWord 48 1).slot.unread = false := ⟨rfl, rfl, by decide, rfl, by decide, rfl⟩

theorem witness_PollReturnsNewestCommand :
    let s : State := { State.resetWith (config 4 true) with
      requests := [encode .receive (.ingest [0xAA, 2, 0, 2])] }
    s.IsReset (config 4 true) ∧ ∃ t, SafeRun 1 s t :=
  ⟨by constructor <;> simp [State.resetWith],
    _, safeRun_one (a := .receive) (i := .ingest [0xAA, 2, 0, 2]) rfl (by decide) rfl⟩

theorem witness_PolledCommandIsOneAcceptedFrame :
    (pending []).Inv ∧ (pending []).MailboxOk ∧ (pending []).slot.unread = true :=
  ⟨inv_pending _, mailboxOk_pending _, by decide⟩

theorem witness_PollNeverChangesDecoding :
    ∃ p u v, exec .poll (opened false [0xAA, 2]) = .next p ∧
      exec (.ingest [0, 2]) (opened false [0xAA, 2]) = .next u ∧ exec (.ingest [0, 2]) p = .next v := by
  obtain ⟨_, e⟩ | ⟨_, e⟩ := exec_poll_cases (opened false [0xAA, 2]) <;> exact ⟨_, _, _, e, rfl, rfl⟩

theorem witness_ResetDecoderWritesDecStateOnly :
    (opened true []).dec.state = .awaitingSync ∧ (opened true []).cfg.resetOnDelivery = true ∧
    (State.resetWith (config 4 false)).IsReset (config 4 false) ∧ (config 4 false).resetOnDelivery = false :=
  ⟨by decide, by decide, isReset_resetWith _, rfl⟩

theorem witness_CurrentSetIsTransmitted : State.reset.cfg.curSetType = 0x05 := rfl

theorem witness_TransmittedFrameShape :
    (∃ index v, Instr.encConfigResponse 0xFF 0xFFFFFFFF = .encConfigResponse index v) ∧
    ∃ v, Instr.encCurrentSet 0 = .encCurrentSet v := ⟨⟨_, _, rfl⟩, ⟨_, rfl⟩⟩

/-- Both encoder operations and each of the three others. -/
theorem witness_EncoderAndDecoderIndependent :
    (∃ s₁, exec (.encConfigResponse 3 0) (opened true []) = .next s₁) ∧
    (∃ s₁, exec (.encCurrentSet 0) (opened true []) = .next s₁) ∧
    (∃ s₂, exec (.ingest [0xAA]) (opened true []) = .next s₂) ∧
    (∃ s₂, exec .poll (opened true []) = .next s₂) ∧
    (∃ s₂, exec .resetDecoder (opened true []) = .next s₂) := by
  refine ⟨⟨_, rfl⟩, ⟨_, rfl⟩, ⟨_, rfl⟩, ?_, ⟨_, rfl⟩⟩
  obtain ⟨_, e⟩ | ⟨_, e⟩ := exec_poll_cases (opened true []) <;> exact ⟨_, e⟩

theorem witness_TxlogKeepsIssueOrder :
    (∀ i ∈ [Instr.encCurrentSet 7], i.wf (pending []).cfg = true) ∧
    (pending [.encCurrentSet 7]).requests = [Instr.encCurrentSet 7].map (encode .application) ∧
    ∃ u, SafeRun 1 (pending [.encCurrentSet 7]) u :=
  ⟨by decide, rfl, _, safeRun_one (a := .application) (i := .encCurrentSet 7) rfl (by decide) rfl⟩

theorem witness_AdmittedRunsNeverStop : (pending [.poll, .resetDecoder]).Admissible := by
  intro r hr
  have : r = encode .application .poll ∨ r = encode .application .resetDecoder := by simpa [pending] using hr
  rcases this with rfl | rfl
  · exact ⟨.poll, by decide⟩
  · exact ⟨.resetDecoder, by decide⟩

/-- A request of each agent. -/
theorem witness_AgentsOwnTheirRegisters (i : Instr) (hi : i = .encCurrentSet 0 ∨ i = .resetDecoder) :
    (pending [i]).requests = encode .application i :: [] ∧
    decode (pending [i]).cfg (encode .application i) = .ok i ∧
    (∃ t, step (pending [i]) = .next t) ∧ (i.agent = .application ∨ i.agent = .receive) := by
  have hd : decode (pending [i]).cfg (encode .application i) = .ok i := by rcases hi with rfl | rfl <;> decide
  refine ⟨rfl, hd, ?_, by rcases hi with rfl | rfl <;> decide⟩
  rw [step_of_decode (s := pending [i]) (r := encode .application i) (rest := []) rfl hd]
  rcases hi with rfl | rfl <;> exact ⟨_, rfl⟩

theorem witness_UnreadFlagDiscipline :
    ((pending []).slot.unread = true ∧ ∃ t, exec .poll (pending []) = .next t ∧ t.slot.unread = false) ∧
    ((opened true []).slot.unread = false ∧
      ∃ t, exec (.ingest [0xAA, 2, 0, 2]) (opened true []) = .next t ∧ t.slot.unread = true) := by
  refine ⟨⟨by decide, ?_⟩, by decide, _, rfl, by decide⟩
  obtain ⟨_, e⟩ | ⟨h, e⟩ := exec_poll_cases (pending [])
  · exact ⟨_, e, rfl⟩
  · exact ⟨_, e, h⟩

/-- Two blocks just constructed that differ in every register R32 calls unspecified, with one INGEST pending. -/
theorem witness_UnspecifiedRegistersNeverMatter :
    let s : State := { State.resetWith (config 1 true) with
      requests := [encode .receive (.ingest [0xAA, 2, 0, 2])] }
    let t : State := { s with
      dec := { state := .awaitingSync, cnt := 1, sum := 2, type := 3, len := 4, buf := [5] }
      slot := { type := 6, len := 7, payload := [8], unread := false } }
    s.IsReset (config 1 true) ∧ t.IsReset (config 1 true) ∧ s.requests = t.requests ∧ s.Inv ∧ t.Inv ∧
    s.LiveEq t ∧ ∃ s', SafeRun 1 s s' := by
  refine ⟨by constructor <;> simp [State.resetWith], by constructor <;> simp [State.resetWith] <;> rfl, rfl,
    ⟨(inv_resetWith _).dec, (inv_resetWith _).slot⟩, ⟨Decoder.ok_of_awaitingSync rfl rfl, ⟨rfl, nofun⟩⟩, ?_,
    _, safeRun_one (a := .receive) (i := .ingest [0xAA, 2, 0, 2]) rfl (by decide) rfl⟩
  exact ⟨rfl, by constructor <;> simp [State.resetWith], rfl, rfl, rfl, rfl, rfl⟩

/-- Two blocks of which one has a frame open. -/
theorem witness_DecoderCarriesNothingAcrossDeliveries :
    let s : State := pending [.poll]
    let t : State := { s with dec := (opened true [0xAA, 2]).dec }
    s.cfg.resetOnDelivery = true ∧ s.Inv ∧ t.Inv ∧ s.SameOutsideDecoder t ∧ ∃ s', SafeRun 1 s s' :=
  ⟨by decide, inv_pending _, ⟨(inv_opened true [0xAA, 2]).dec, (inv_pending []).slot⟩,
    ⟨rfl, rfl, rfl, rfl, rfl, rfl⟩, safeRun_poll⟩

theorem witness_DecStateCodes : DecState.code .readingType = DecState.code .readingType := rfl

end Sys2Proof.Tests
end

section
namespace Sys2Proof.Machine

/-! The configuration (spec/10_state.md R30): no operation writes it, so no step and no run does. -/

/-- No operation writes the configuration (R30). -/
theorem exec_keeps_cfg {i : Instr} {s t : State} (h : exec i s = .next t) : t.cfg = s.cfg := by
  cases i with
  | ingest data =>
    obtain ⟨hcfg, _⟩ := perCallReset_frame s
    cases h
    exact (ingestBytes_cfg data _).trans hcfg
  | poll =>
    obtain ⟨_, e⟩ | ⟨_, e⟩ := exec_poll_cases s <;> cases e.symm.trans h <;> simp
  | encConfigResponse index v => cases h; simp
  | encCurrentSet v => cases h; simp
  | resetDecoder => cases h; simp

/-- A step that goes on keeps the configuration: it waits, or it runs one operation. -/
theorem step_keeps_cfg {s t : State} (h : step s = .next t) : t.cfg = s.cfg := by
  obtain ⟨_, e⟩ | ⟨_, _, _, _, _, e⟩ | ⟨r, rest, i, _, _, e⟩ := step_cases s
  · cases e.symm.trans h
    rfl
  · cases e.symm.trans h
  · exact exec_keeps_cfg (s := { s with requests := rest }) (e.symm.trans h)

/-- Settles O5, by induction over the run: every step keeps the configuration. -/
theorem configurationNeverChanges : Obligations.ConfigurationNeverChanges := fun _ s _ hrun =>
  SafeRun.induction (P := fun u => u.cfg = s.cfg) (fun _ _ hu hstep => (step_keeps_cfg hstep).trans hu) rfl hrun

end Sys2Proof.Machine
end

section
namespace Sys2Proof

/-! The admission of requests (spec/30_encoding.md R57-R59): what each arm of the decoder accepts, and that
the decoder accepts a request with the data its header declares exactly when R58 admits the header. -/

theorem decodePlain_eq_ok_iff (i j : Instr) (r : Request) :
    decodePlain i r = .ok j ↔ reqIdx r.header = 0 ∧ reqArg r.header = 0 ∧ r.data = [] ∧ i = j := by
  unfold decodePlain
  split_ifs <;> simp_all

theorem decodeIngest_eq_ok_iff (c : Config) (r : Request) (j : Instr) :
    decodeIngest c r = .ok j ↔ reqIdx r.header = 0 ∧ r.data.length = (reqArg r.header).toNat ∧
      r.data.length ≤ c.maxDelivery.val ∧ .ingest r.data = j := by
  unfold decodeIngest
  split_ifs with hidx hlen hmax
  · simp_all
  · simp [hlen]
  · simp [Nat.not_le.2 hmax]
  · simp_all

theorem decodeConfigResponse_eq_ok_iff (r : Request) (j : Instr) :
    decodeConfigResponse r = .ok j ↔
      r.data = [] ∧ .encConfigResponse (reqIdx r.header) (reqArg r.header) = j := by
  unfold decodeConfigResponse
  split_ifs <;> simp_all

theorem decodeCurrentSet_eq_ok_iff (r : Request) (j : Instr) :
    decodeCurrentSet r = .ok j ↔
      reqIdx r.header = 0 ∧ r.data = [] ∧ .encCurrentSet (reqArg r.header) = j := by
  unfold decodeCurrentSet
  split_ifs <;> simp_all

/-- R58 in numbers: the form in which the decoder reads OP. -/
theorem headerAdmitted_iff (h : Header) :
    headerAdmitted h = true ↔ (reqOp h).toNat ≤ 4 ∧ reqRsv h = 0 ∧
      ((reqOp h).toNat = 2 ∨ reqIdx h = 0) ∧ ((reqOp h).toNat ∈ [0, 2, 3] ∨ reqArg h = 0) := by
  simp [headerAdmitted, BitVec.le_def, ← BitVec.toNat_inj, and_assoc, or_assoc]

/-- The data bytes a header declares: ARG many for INGEST, none for the others (R57, R59). -/
def declaredLength (h : Header) : Nat := if reqOp h = 0 then (reqArg h).toNat else 0

theorem declaredLength_of_ingest {h : Header} (hop : (reqOp h).toNat = 0) :
    declaredLength h = (reqArg h).toNat :=
  if_pos (BitVec.eq_of_toNat_eq hop)

theorem declaredLength_of_not_ingest {h : Header} (hop : (reqOp h).toNat ≠ 0) : declaredLength h = 0 :=
  if_neg fun e => hop (congrArg BitVec.toNat e)

/-- With the declared data, within MAX_DELIVERY, the header alone decides: one case per arm of the decoder. -/
theorem decode_ok_iff_headerAdmitted {c : Config} {r : Request}
    (hlen : r.data.length = declaredLength r.header) (hmax : r.data.length ≤ c.maxDelivery.val) :
    (∃ i, decode c r = .ok i) ↔ headerAdmitted r.header = true := by
  have hdata (hop : (reqOp r.header).toNat ≠ 0) : r.data = [] :=
    List.length_eq_zero_iff.1 (hlen.trans (declaredLength_of_not_ingest hop))
  rw [headerAdmitted_iff, decode]
  by_cases hrsv : reqRsv r.header = 0
  case neg => simp_all
  rw [if_neg (not_not.2 hrsv)]
  split
  case h_1 hop =>
    have harg := hlen.trans (declaredLength_of_ingest hop)
    simp [decodeIngest_eq_ok_iff, hop, hrsv, harg, harg ▸ hmax]
  case h_2 hop => simp [decodePlain_eq_ok_iff, hop, hrsv, hdata]
  case h_3 hop => simp [decodeConfigResponse_eq_ok_iff, hop, hrsv, hdata]
  case h_4 hop => simp [decodeCurrentSet_eq_ok_iff, hop, hrsv, hdata]
  case h_5 hop => simp [decodePlain_eq_ok_iff, hop, hrsv, hdata]
  case h_6 h0 h1 h2 h3 h4 =>
    rw [imp_false] at h0 h1 h2 h3 h4
    have hop : ¬ (reqOp r.header).toNat ≤ 4 := by omega
    simp [hop]

end Sys2Proof
end

section
namespace Sys2Proof.Machine

/-- No operation is refused or ends in a fault (R13, R100). -/
theorem exec_completes (i : Instr) (s : State) : ∃ t, exec i s = .next t := by
  cases i with
  | ingest data => exact ⟨_, exec_ingest data s⟩
  | poll => obtain ⟨_, e⟩ | ⟨_, e⟩ := exec_poll_cases s <;> exact ⟨_, e⟩
  | encConfigResponse index v => exact ⟨_, exec_encConfigResponse index v s⟩
  | encCurrentSet v => exact ⟨_, exec_encCurrentSet v s⟩
  | resetDecoder => exact ⟨_, exec_resetDecoder s⟩

theorem step_of_decode_error {s : State} {r : Request} {rest : List Request} {why : Reject}
    (hr : s.requests = r :: rest) (hd : decode s.cfg r = .error why) :
    step s = .refused (.inadmissible why) := by
  simp [step, nextRequest, hr, hd]

/-- A step on a pending request goes on exactly when the request decodes. -/
theorem step_next_iff {s : State} {r : Request} {rest : List Request} (hr : s.requests = r :: rest) :
    (∃ t, step s = .next t) ↔ ∃ i, decode s.cfg r = .ok i := by
  cases hd : decode s.cfg r with
  | error why => simp [step_of_decode_error hr hd]
  | ok i => simp [step_of_decode hr hd, exec_completes]

/-- A step on a pending request refuses it exactly when the request does not decode. -/
theorem step_refused_iff {s : State} {r : Request} {rest : List Request} (hr : s.requests = r :: rest) :
    (∃ why, step s = .refused (.inadmissible why)) ↔ ¬ ∃ i, decode s.cfg r = .ok i := by
  cases hd : decode s.cfg r with
  | error why => simp [step_of_decode_error hr hd]
  | ok i =>
    obtain ⟨t, ht⟩ := exec_completes i { s with requests := rest }
    simp [step_of_decode hr hd, ht]

/-- Settles O8: a step goes on exactly when the request decodes, which the header's admission decides. -/
theorem requestRunsExactlyWhenAdmitted : Obligations.RequestRunsExactlyWhenAdmitted := by
  intro s r rest hr hlen hmax admitted
  have hadmitted : (∃ i, decode s.cfg r = .ok i) ↔ admitted := by
    rw [decode_ok_iff_headerAdmitted hlen hmax, headerAdmitted_iff]
    simp only [← BitVec.toNat_inj]
    rfl
  exact ⟨(step_next_iff hr).trans hadmitted, (step_refused_iff hr).trans (not_congr hadmitted)⟩

end Sys2Proof.Machine
end

section
namespace Sys2Proof.Machine

/-! STEP, one rule per state (spec/40_decoder.md R69-R76), and the transition table read off them (R68). -/

/-- Settles O17, by the two branches of R69. -/
theorem stepInAwaitingSync : Obligations.StepInAwaitingSync := by
  intro b s hs
  rw [stepByte_awaitingSync hs]
  exact ⟨fun hb => if_pos hb, fun hb => if_neg hb⟩

/-- Settles O18: R70 has one branch. -/
theorem stepInReadingType : Obligations.StepInReadingType := fun b _ hs => stepByte_type hs b

/-- A LENGTH byte within CAP is taken (R71). -/
theorem stepByte_takeLength {s : State} {b : Byte} (hs : s.dec.state = .readingLength)
    (hb : b.toNat ≤ s.cfg.cap.val) : stepByte b s = { s with dec := takeLength b s.dec } := by
  rw [stepByte_length hs, stepLength, if_neg (Nat.not_lt.2 hb)]

/-- A LENGTH byte above CAP is rejected (R72). -/
theorem stepByte_rejectLength {s : State} {b : Byte} (hs : s.dec.state = .readingLength)
    (hb : s.cfg.cap.val < b.toNat) : stepByte b s = rejectLength b s := by
  rw [stepByte_length hs, stepLength, if_pos hb]

/-- Settles O19: the next DEC_STATE is the one choice R71 leaves. -/
theorem stepInReadingLength : Obligations.StepInReadingLength := by
  intro b s hs hb
  rw [stepByte_takeLength hs hb, takeLength]
  exact ⟨fun h => by rw [if_pos h]; rfl, fun h => by rw [if_neg h]; rfl⟩

/-- Settles O21: the next DEC_STATE is the one choice R73 leaves; the bounds are the invariant's. -/
theorem stepInReadingPayload : Obligations.StepInReadingPayload := by
  intro b s hs
  rw [stepByte_payload hs, stepPayload, storePayload]
  refine ⟨fun h => by rw [if_pos h]; rfl, fun h => by rw [if_neg h, ← hs]; rfl, fun hinv => ?_⟩
  exact ⟨hinv.dec.payloadCnt hs, hinv.dec.payloadLen hs, hinv.dec.cnt_succ hs⟩

/-- A CHECKSUM byte equal to DEC_SUM accepts the frame (R75). -/
theorem stepByte_accept {s : State} {b : Byte} (hs : s.dec.state = .readingChecksum) (hb : b = s.dec.sum) :
    stepByte b s = acceptFrame s := by
  rw [stepByte_checksum hs, stepChecksum, checksumMatches, if_pos (decide_eq_true hb)]

/-- Any other CHECKSUM byte rejects it (R76). -/
theorem stepByte_reject {s : State} {b : Byte} (hs : s.dec.state = .readingChecksum) (hb : b ≠ s.dec.sum) :
    stepByte b s = rejectFrame s := by
  rw [stepByte_checksum hs, stepChecksum, checksumMatches, decide_eq_false hb, if_neg Bool.false_ne_true]

/-- Settles O22: the slot latches the decoder's Command, as long as DEC_LEN by the invariant; below DEC_LEN its
payload is DEC_BUF's, from there on the slot's old one. -/
theorem stepAcceptsMatchingChecksum : Obligations.StepAcceptsMatchingChecksum := by
  intro b s hinv hs hb
  have hlen : s.dec.command.payload.length = s.dec.len.toNat := hinv.dec.command_payload_length hs
  refine ⟨(s.slot.latch s.dec.command).payload, stepByte_accept hs hb,
    (hinv.slot.latch hlen (hinv.dec.checkLen hs)).payloadSize, fun k hk => ?_, fun k hk => ?_⟩
  · rw [Slot.latch_payload, List.getElem?_append_left (hlen ▸ hk)]
    exact List.getElem?_take_of_lt hk
  · rw [Slot.latch_payload, hlen, List.getElem?_append_right (hlen ▸ hk), hlen, List.getElem?_drop,
      Nat.add_sub_cancel' hk]

/-- Settles O23: R76 writes DEC_STATE and the model's history only. -/
theorem stepRejectsOtherChecksum : Obligations.StepRejectsOtherChecksum := fun _ _ hs hb => stepByte_reject hs hb

/-- After the CHECKSUM byte, matching or not, the decoder awaits the next frame (R75, R76). -/
theorem stepByte_checksum_inSync {s : State} (hs : s.dec.state = .readingChecksum) (b : Byte) :
    (stepByte b s).dec.state = .awaitingSync := by
  by_cases hb : b = s.dec.sum
  · rw [stepByte_accept hs hb]; rfl
  · rw [stepByte_reject hs hb]; rfl

/-- Settles O16: each row of the table is the rule of its state. -/
theorem stepFollowsTransitionTable : Obligations.StepFollowsTransitionTable := by
  intro b s hinv
  refine ⟨fun hs hb => ?sync, fun hs hb => ?stray, fun hs => ?type, fun hs hb => ?overflow, fun hs hb => ?empty,
    fun hs hpos hb => ?length, hinv.dec.payloadCnt, fun hs hlt => ?payload, fun hs hlast => ?lastPayload,
    fun hs => stepByte_checksum_inSync hs b⟩
  case sync => rw [(stepInAwaitingSync b s hs).1 hb]
  case stray => rw [(stepInAwaitingSync b s hs).2 hb]; exact hs
  case type => rw [stepInReadingType b s hs]
  case overflow => rw [stepByte_rejectLength hs hb]; rfl
  case empty => rw [(stepInReadingLength b s hs (by simp [hb])).1 hb]
  case length =>
    have hne : b ≠ 0 := by rintro rfl; simp at hpos
    rw [(stepInReadingLength b s hs hb).2 hne]
  case payload =>
    have hsucc := hinv.dec.cnt_succ hs
    have hne : s.dec.cnt + 1 ≠ s.dec.len := fun e => by rw [e] at hsucc; omega
    rw [(stepInReadingPayload b s hs).2.1 hne]; exact hs
  case lastPayload =>
    have hfull : s.dec.cnt + 1 = s.dec.len := BitVec.eq_of_toNat_eq ((hinv.dec.cnt_succ hs).trans hlast)
    rw [(stepInReadingPayload b s hs).1 hfull]

end Sys2Proof.Machine
end

section
namespace Sys2Proof.Machine

/-! A frame read byte by byte (spec/30_encoding.md R50, spec/40_decoder.md R69-R75, R82). -/

/-- Of an unfinished frame the decoder has read TYPE `t`, LENGTH `len` and the payload bytes `q`. The next byte is a payload
byte while bytes are missing, else the checksum (R71, R73). -/
structure Decoder.HasRead (t len : Byte) (q : List Byte) (d : Decoder) : Prop where
  state : d.state = if q.length = len.toNat then .readingChecksum else .readingPayload
  cnt : d.cnt.toNat = q.length
  sum : d.sum = sum8 ([t, len] ++ q)
  type : d.type = t
  lenByte : d.len = len
  stored : d.buf.take q.length = q
  room : len.toNat ≤ d.buf.length

/-- The decoder after SYNC and TYPE `t`: the LENGTH byte is due, DEC_SUM is the TYPE (R69, R70). -/
def Decoder.opened (t : Byte) (d : Decoder) : Decoder :=
  { d with type := t, sum := sum8 [t], state := .readingLength }

theorem ingestBytes_syncType {s : State} (hs : s.dec.state = .awaitingSync) (t : Byte) (bs : List Byte) :
    ingestBytes (syncByte :: t :: bs) s = ingestBytes bs { s with dec := s.dec.opened t } := by
  rw [ingestBytes_cons, (stepInAwaitingSync syncByte s hs).1 rfl, ingestBytes_cons, stepInReadingType _ _ rfl,
    Decoder.opened, sum8_singleton]
  simp only [zero_add]

/-- SYNC, a TYPE and a LENGTH within CAP: the payload is due, or the checksum (R71). -/
theorem ingestBytes_header {s : State} (hs : s.dec.state = .awaitingSync) (t : Byte) {len : Byte}
    (hcap : len.toNat ≤ s.cfg.cap.val) (hbuf : len.toNat ≤ s.dec.buf.length) :
    ∃ d, ingestBytes [syncByte, t, len] s = { s with dec := d } ∧ d.HasRead t len [] := by
  refine ⟨takeLength len (s.dec.opened t), ?_, ?_⟩
  · rw [ingestBytes_syncType hs]
    exact stepByte_takeLength (s := { s with dec := s.dec.opened t }) rfl hcap
  · have hzero : len = 0 ↔ ([] : List Byte).length = len.toNat := by rw [← BitVec.toNat_inj]; exact eq_comm
    exact
      { state := by simp only [takeLength_state, hzero]
        cnt := rfl
        sum := addSum_sum8 [t] len
        type := rfl, lenByte := rfl, stored := rfl, room := hbuf }

/-- One more payload byte is stored behind the ones read (R73). -/
theorem Decoder.HasRead.storePayload {t len : Byte} {q : List Byte} {d : Decoder} (h : d.HasRead t len q)
    (hlt : q.length < len.toNat) (b : Byte) : (storePayload b d).HasRead t len (q ++ [b]) := by
  have hcnt : (d.cnt + 1).toNat = (q ++ [b]).length := by
    have := len.isLt
    rw [BitVec.toNat_add, h.cnt, List.length_append]
    exact Nat.mod_eq_of_lt (show q.length + 1 < 256 by omega)
  have hlast : d.cnt + 1 = d.len ↔ (q ++ [b]).length = len.toNat := by rw [← BitVec.toNat_inj, hcnt, h.lenByte]
  exact
    { state := by simp only [storePayload_state, hlast]
      cnt := hcnt
      sum := by rw [storePayload_sum, h.sum, addSum_sum8, List.append_assoc]
      type := h.type
      lenByte := h.lenByte
      stored := by
        rw [List.length_append, List.length_singleton, storePayload_buf, h.cnt,
          take_succ_set _ q.length b (hlt.trans_le h.room), h.stored]
      room := by simpa using h.room }

/-- Payload bytes, up to LENGTH of them, are read behind the ones read before. -/
theorem ingestBytes_payload {t len : Byte} {q : List Byte} {s : State} (h : s.dec.HasRead t len q) (p : List Byte)
    (hp : q.length + p.length ≤ len.toNat) :
    ∃ d, ingestBytes p s = { s with dec := d } ∧ d.HasRead t len (q ++ p) := by
  induction p generalizing q s with
  | nil => exact ⟨s.dec, rfl, by simpa using h⟩
  | cons b p ih =>
    rw [List.length_cons] at hp
    have hlt : q.length < len.toNat := by omega
    have hs : s.dec.state = .readingPayload := h.state.trans (if_neg hlt.ne)
    obtain ⟨d, hd, hread⟩ := ih (s := stepPayload b s) (h.storePayload hlt b)
      (by rw [List.length_append, List.length_singleton]; omega)
    rw [List.append_assoc] at hread
    exact ⟨d, by rw [ingestBytes_cons, stepByte_payload hs, hd]; rfl, hread⟩

/-- With LENGTH payload bytes read, the decoder holds the Command. -/
theorem Decoder.HasRead.command {t len : Byte} {q : List Byte} {d : Decoder} (h : d.HasRead t len q)
    (hfull : q.length = len.toNat) : d.command = ⟨t, len, q⟩ := by
  rw [Decoder.command, h.type, h.lenByte, ← hfull, h.stored]

/-- With LENGTH payload bytes read, the frame's sum is the matching CHECKSUM byte (R74, R75). -/
theorem Decoder.HasRead.stepByte_checksum {t len : Byte} {q : List Byte} {s : State} (h : s.dec.HasRead t len q)
    (hfull : q.length = len.toNat) : stepByte (sum8 ([t, len] ++ q)) s = acceptFrame s :=
  stepByte_accept (h.state.trans (if_pos hfull)) h.sum.symm

/-- A payload within CAP is as long as the LENGTH byte sent with it says. -/
theorem toNat_lengthByte {c : Config} {p : List Byte} (hp : p.length ≤ c.cap.val) :
    (BitVec.ofNat 8 p.length).toNat = p.length :=
  BitVec.toNat_ofNat .. |>.trans (Nat.mod_eq_of_lt (hp.trans_lt c.cap.isLt))

/-- A whole frame read in AwaitingSync is accepted: nothing but decoder registers changed before. -/
theorem ingestBytes_rxFrame {s : State} (hs : s.dec.state = .awaitingSync) (t : Byte) {p : List Byte}
    (hcap : p.length ≤ s.cfg.cap.val) (hbuf : p.length ≤ s.dec.buf.length) :
    ∃ d, ingestBytes (rxFrame t p) s = acceptFrame { s with dec := d } ∧
      d.command = ⟨t, BitVec.ofNat 8 p.length, p⟩ := by
  have hlen := toNat_lengthByte hcap
  obtain ⟨d₀, hheader, hread₀⟩ := ingestBytes_header hs t (hlen.trans_le hcap) (hlen.trans_le hbuf)
  obtain ⟨d, hpayload, hread⟩ := ingestBytes_payload (s := { s with dec := d₀ }) hread₀ p (by simp [hlen])
  refine ⟨d, ?_, hread.command hlen.symm⟩
  rw [rxFrame, ingestBytes_append, ingestBytes_append, hheader, hpayload]
  exact hread.stepByte_checksum (s := { s with dec := d }) hlen.symm

/-- The per-call reset writes decoder registers only. -/
theorem perCallReset_eq (s : State) : perCallReset s = { s with dec := (perCallReset s).dec } := by
  obtain ⟨_, e⟩ | ⟨_, e⟩ := perCallReset_cases s
  · rw [e]; rfl
  · rw [e]

/-- The per-call reset keeps DEC_BUF. -/
theorem perCallReset_buf (s : State) : (perCallReset s).dec.buf = s.dec.buf := by
  obtain ⟨_, e⟩ | ⟨_, e⟩ := perCallReset_cases s
  · rw [e]; rfl
  · rw [e]

/-- A slot that has latched a Command with as many payload bytes as its length says, holds it (R75). -/
theorem Slot.command_latch (c : Command) (sl : Slot) (h : c.payload.length = c.length.toNat) :
    (sl.latch c).command = c :=
  Option.some.inj (Slot.ready_latch c sl h)

/-- A whole frame delivered from AwaitingSync: the slot latches its Command (R82). -/
theorem exec_ingest_rxFrame {s : State} (hsync : s.StartsInSync) (t : Byte) {p : List Byte}
    (hcap : p.length ≤ s.cfg.cap.val) (hbuf : p.length ≤ s.dec.buf.length) :
    ∃ d, exec (.ingest (rxFrame t p)) s = .next (acceptFrame { s with dec := d }) ∧
      d.command = ⟨t, BitVec.ofNat 8 p.length, p⟩ := by
  obtain ⟨hcfg, -⟩ := perCallReset_frame s
  obtain ⟨d, hd, hcommand⟩ := ingestBytes_rxFrame (perCallReset_inSync hsync) t (p := p)
    (by rw [hcfg]; exact hcap) (by rw [perCallReset_buf]; exact hbuf)
  refine ⟨d, ?_, hcommand⟩
  rw [exec_ingest, hd, perCallReset_eq]

/-- Settles O27: the frame is accepted, and the slot that latched its Command holds it. -/
theorem deliveredFrameIsAccepted : Obligations.DeliveredFrameIsAccepted := by
  intro s t p hinv hsync hp
  obtain ⟨d, hexec, hcommand⟩ := exec_ingest_rxFrame hsync t hp (hinv.dec.bufSize ▸ hp)
  have hslot : (s.slot.latch d.command).command = ⟨t, BitVec.ofNat 8 p.length, p⟩ := by
    rw [hcommand]
    exact Slot.command_latch _ _ (toNat_lengthByte hp).symm
  exact ⟨_, hexec, hslot, rfl, rfl, rfl, rfl, rfl, rfl, by rw [← hcommand]; rfl⟩

/-- The registers a rejected LENGTH byte may write are each written or left (R72). -/
theorem rejectLength_eq (b : Byte) (s : State) :
    ∃ len sum cnt : Byte, (len = s.dec.len ∨ len = b) ∧ (sum = s.dec.sum ∨ sum = s.dec.sum + b) ∧
      (cnt = s.dec.cnt ∨ cnt = 0) ∧
      rejectLength b s = { s with
        dec := { s.dec with len := len, sum := sum, cnt := cnt, state := .awaitingSync }
        events := s.events ++ [.lengthOverflow]
        freeIdx := s.freeIdx + 1 } :=
  ⟨_, _, _, (ite_eq_or_eq ..).symm, (ite_eq_or_eq ..).symm, (ite_eq_or_eq ..).symm, rfl⟩

/-- SYNC, a TYPE and a LENGTH above CAP: the decoder awaits SYNC again, and the rejection is recorded (R72). -/
theorem ingestBytes_overflow {s : State} (hs : s.dec.state = .awaitingSync) (t : Byte) {len : Byte}
    (hcap : s.cfg.cap.val < len.toNat) :
    (ingestBytes [syncByte, t, len] s).dec.state = .awaitingSync ∧
      (ingestBytes [syncByte, t, len] s).events = s.events ++ [.lengthOverflow] := by
  have hreject := stepByte_rejectLength (s := { s with dec := s.dec.opened t }) rfl hcap
  rw [ingestBytes_syncType hs, ingestBytes_cons, hreject]
  exact ⟨rfl, rfl⟩

/-- Settles O20: the rejection of R72; in its example the frame that follows is accepted. -/
theorem stepOnLengthOverflow : Obligations.StepOnLengthOverflow := by
  refine ⟨fun b s hs hb => ?_, fun s hcap hsync => ?_⟩
  · rw [stepByte_rejectLength hs hb]
    exact rejectLength_eq b s
  · obtain ⟨hcfg, -, -, -, -, hevents, -⟩ := perCallReset_frame s
    obtain ⟨hstate, hover⟩ := ingestBytes_overflow (perCallReset_inSync hsync) 0x00 (len := 0x11)
      (by rw [hcfg, hcap]; decide)
    obtain ⟨d, hframe, hcommand⟩ := ingestBytes_rxFrame hstate 0x02 (p := []) (Nat.zero_le _) (Nat.zero_le _)
    have hbytes := (ingestBytes_append [syncByte, 0x00, 0x11] (rxFrame 0x02 []) (perCallReset s)).trans hframe
    refine ⟨_, congrArg Host.Outcome.next hbytes, ?_, ?_⟩
    · show (Slot.latch d.command _).ready = _
      rw [hcommand]
      exact Slot.ready_latch _ _ rfl
    · show _ ++ [Event.accepted d.command] = _
      rw [hcommand, hover, hevents, List.append_assoc]
      rfl

end Sys2Proof.Machine
end

section
namespace Sys2Proof.Machine

/-! INGEST as a whole (spec/40_decoder.md R67, R77, R80). -/

/-- Since `s` the history has grown by some events; the slot has the last Command accepted in them ready, or is the
slot of `s` if none was accepted (R77). -/
def SlotHasLastAccepted (s u : State) : Prop :=
  ∃ ev, u.events = s.events ++ ev ∧ (∀ cs c, acceptedIn ev = cs ++ [c] → u.slot.ready = some c) ∧
    (acceptedIn ev = [] → u.slot = s.slot)

theorem acceptedIn_append (xs ys : List Event) : acceptedIn (xs ++ ys) = acceptedIn xs ++ acceptedIn ys :=
  List.filterMap_append

theorem slotHasLastAccepted_refl (s : State) : SlotHasLastAccepted s s := ⟨[], by simp [acceptedIn]⟩

/-- A byte that accepts a Command makes it the last and latches it; any other leaves both alone. -/
theorem SlotHasLastAccepted.stepByte {s u : State} (h : SlotHasLastAccepted s u) (hinv : u.Inv) (b : Byte) :
    SlotHasLastAccepted s (stepByte b u) := by
  obtain ⟨ev, hev, hlast, hnone⟩ := h
  obtain ⟨hevents, hslot, hs⟩ | ⟨ev', hevents, -, hempty, -, hslot⟩ := stepByte_event b u
  · have hacc : acceptedIn (ev ++ [.accepted u.dec.command]) = acceptedIn ev ++ [u.dec.command] :=
      acceptedIn_append ..
    refine ⟨_, by rw [hevents, hev, List.append_assoc], fun cs c hc => ?_, fun hc => ?_⟩
    · obtain ⟨-, hlatched⟩ := List.append_inj' (hacc.symm.trans hc) rfl
      rw [hslot, ← List.singleton_inj.1 hlatched]
      exact Slot.ready_latch _ _ (hinv.dec.command_payload_length hs)
    · simp [hacc] at hc
  · have hacc : acceptedIn (ev ++ ev') = acceptedIn ev := by
      rw [acceptedIn_append, hempty, List.append_nil]
    refine ⟨ev ++ ev', by rw [hevents, hev, List.append_assoc], ?_⟩
    rw [hacc, hslot]
    exact ⟨hlast, hnone⟩

/-- Settles O29, by induction over the delivered bytes. -/
theorem lastAcceptedFrameSurvives : Obligations.LastAcceptedFrameSurvives := by
  intro s data hinv
  obtain ⟨-, hslot, -, -, -, hevents, -⟩ := perCallReset_frame s
  obtain ⟨-, ev, hev, hlast, hnone⟩ :=
    ingestBytes_induction (P := fun u => u.Inv ∧ SlotHasLastAccepted (perCallReset s) u)
      (fun b u ⟨hu, h⟩ => ⟨stepByte_inv b u hu, h.stepByte hu b⟩) data (perCallReset s)
      ⟨hinv.perCallReset, slotHasLastAccepted_refl _⟩
  exact ⟨_, ev, exec_ingest data s, hevents ▸ hev, hlast, fun h => (hnone h).trans hslot⟩

/-- Settles O25, by the two cases of the per-call reset. -/
theorem emptyDelivery : Obligations.EmptyDelivery := by
  intro s
  rw [exec_ingest, ingestBytes_nil, perCallReset]
  exact ⟨fun h => by rw [if_pos h]; rfl, fun h => by rw [h]; rfl⟩

/-- INGEST's loop is the fold of STEP over the data. -/
theorem ingestBytes_eq_foldl (data : List Byte) (s : State) :
    ingestBytes data s = data.foldl (fun t b => stepByte b t) s := by
  induction data generalizing s with
  | nil => rfl
  | cons b bs ih => exact ih (stepByte b s)

/-- A delivery within MAX_DELIVERY is decoded from the request that issues it (R57, R59). -/
theorem decode_encode_ingest {c : Config} {data : List Byte} (hmax : data.length ≤ c.maxDelivery.val) (a : Agent) :
    decode c (encode a (.ingest data)) = .ok (.ingest data) := by
  have hlen : data.length % 4294967296 = data.length := Nat.mod_eq_of_lt (hmax.trans_lt c.maxDelivery.isLt)
  simp [decode, encode, Instr.op, Instr.idx, Instr.arg, Instr.data, decodeIngest_eq_ok_iff, hlen, hmax]

/-- The header of a delivery in numbers: OP = 0, ARG = n (R57). -/
theorem encode_ingest_header {c : Config} {data : List Byte} (hmax : data.length ≤ c.maxDelivery.val) (a : Agent) :
    encode a (.ingest data) = ⟨a, BitVec.ofNat 48 (data.length * 2 ^ 16), data⟩ := by
  have hlt : data.length < 4294967296 := hmax.trans_lt c.maxDelivery.isLt
  have hheader : packHeader (BitVec.ofNat 32 data.length) 0 0 = BitVec.ofNat 48 (data.length * 2 ^ 16) := by
    apply BitVec.eq_of_toNat_eq
    have hidx : (0 : Byte).toNat = 0 := rfl
    have hop : (0 : BitVec 3).toNat = 0 := rfl
    rw [toNat_packHeader, hidx, hop]
    simp only [BitVec.toNat_ofNat]
    omega
  rw [← hheader]
  rfl

/-- Settles O15: the loop is the fold, the request is the encoded one, and the example is an empty frame of R82. -/
theorem ingestDeliversBytesInOrder : Obligations.IngestDeliversBytesInOrder := by
  refine ⟨fun data s => ?_, fun c a data hmax => ?_, fun c s hreset => ?_⟩
  · rw [exec_ingest, ingestBytes_eq_foldl]
    rfl
  · rw [← encode_ingest_header hmax]
    exact decode_encode_ingest hmax a
  · obtain ⟨d, hexec, hcommand⟩ := exec_ingest_rxFrame (.inr hreset.decState) 0x02 (p := [])
      (Nat.zero_le _) (Nat.zero_le _)
    have hslot : (s.slot.latch d.command).command = ⟨0x02, 0, []⟩ := by
      rw [hcommand]
      exact Slot.command_latch _ _ rfl
    exact ⟨_, hexec, congrArg Command.type hslot, congrArg Command.length hslot, congrArg Command.payload hslot,
      rfl, rfl⟩

end Sys2Proof.Machine
end

section
namespace Sys2Proof.Machine

/-! The ready slot as a mailbox (spec/41_handoff.md R85, R88, R89): what POLL reports, and that slot and
mailbox hold the same along every run. -/

theorem Slot.ready_of_unread {sl : Slot} (h : sl.unread = true) : sl.ready = some sl.command := if_pos h

theorem Slot.ready_of_taken {sl : Slot} (h : sl.unread = false) : sl.ready = none := by simp [Slot.ready, h]

/-- POLL reports what the slot has ready, and leaves nothing unread (R85). -/
theorem exec_poll_reports_ready (s : State) :
    ∃ u, exec .poll s = .next u ∧ u.results = s.results ++ [pollRecord s.slot.ready] ∧ u.slot.unread = false := by
  obtain ⟨h, e⟩ | ⟨h, e⟩ := exec_poll_cases s
  · exact ⟨_, e, by rw [Slot.ready_of_unread h]; rfl, rfl⟩
  · exact ⟨_, e, by rw [Slot.ready_of_taken h]; rfl, h⟩

/-- A property of the block apart from its pending requests that every operation keeps, every step keeps. -/
theorem step_keeps {P : State → Prop} (hrequests : ∀ s rest, P s → P { s with requests := rest })
    (hexec : ∀ i s t, P s → exec i s = .next t → P t) {s t : State} (h : P s) (hstep : step s = .next t) : P t := by
  obtain ⟨_, e⟩ | ⟨_, _, _, _, _, e⟩ | ⟨r, rest, i, _, _, e⟩ := step_cases s
  · cases e.symm.trans hstep
    exact h
  · cases e.symm.trans hstep
  · exact hexec i _ t (hrequests s rest h) (e.symm.trans hstep)

theorem exec_keeps_inv {i : Instr} {s t : State} (hinv : s.Inv) (h : exec i s = .next t) : t.Inv := by
  cases i with
  | ingest data =>
    cases h
    exact ingestBytes_inv data _ hinv.perCallReset
  | poll =>
    obtain ⟨_, e⟩ | ⟨_, e⟩ := exec_poll_cases s <;> cases e.symm.trans h
    · exact ⟨hinv.dec, hinv.slot.markTaken⟩
    · exact ⟨hinv.dec, hinv.slot⟩
  | encConfigResponse index v => cases h; exact ⟨hinv.dec, hinv.slot⟩
  | encCurrentSet v => cases h; exact ⟨hinv.dec, hinv.slot⟩
  | resetDecoder => cases h; exact ⟨hinv.dec.resync, hinv.slot⟩

/-- Later events act on the mailbox that the earlier ones left. -/
theorem mailbox_append (es ev : List Event) : mailbox (es ++ ev) = ev.foldl mailboxStep (mailbox es) :=
  List.foldl_append

theorem mailbox_accepted (es : List Event) (c : Command) : mailbox (es ++ [.accepted c]) = some c :=
  mailbox_append ..

theorem mailbox_taken (es : List Event) (c : Command) : mailbox (es ++ [.taken c]) = none :=
  mailbox_append ..

/-- A byte that accepts a Command puts the same one in slot and mailbox; any other leaves both alone. -/
theorem stepByte_keeps_mailboxOk (b : Byte) (s : State) (hinv : s.Inv) (h : s.MailboxOk) :
    (stepByte b s).MailboxOk := by
  obtain ⟨hevents, hslot, hs⟩ | ⟨ev, hevents, -, -, hkeeps, hslot⟩ := stepByte_event b s <;>
    rw [State.MailboxOk, hevents, hslot]
  · rw [mailbox_accepted]
    exact Slot.ready_latch _ _ (hinv.dec.command_payload_length hs)
  · rw [mailbox_append, hkeeps]
    exact h

theorem ingestBytes_keeps_mailboxOk (data : List Byte) (s : State) (hinv : s.Inv) (h : s.MailboxOk) :
    (ingestBytes data s).MailboxOk :=
  (ingestBytes_induction (P := fun u => u.Inv ∧ u.MailboxOk)
    (fun b u ⟨hu, hm⟩ => ⟨stepByte_inv b u hu, stepByte_keeps_mailboxOk b u hu hm⟩) data s ⟨hinv, h⟩).2

/-- The per-call reset touches neither the slot nor the history. -/
theorem State.MailboxOk.perCallReset {s : State} (h : s.MailboxOk) : (perCallReset s).MailboxOk := by
  obtain ⟨-, hslot, -, -, -, hevents, -⟩ := perCallReset_frame s
  rw [State.MailboxOk, hslot, hevents]
  exact h

/-- INGEST and POLL change slot and mailbox alike, the other operations neither (R88). -/
theorem exec_keeps_mailboxOk {i : Instr} {s t : State} (hinv : s.Inv) (hm : s.MailboxOk)
    (h : exec i s = .next t) : t.MailboxOk := by
  cases i with
  | ingest data =>
    cases h
    exact ingestBytes_keeps_mailboxOk data _ hinv.perCallReset hm.perCallReset
  | poll =>
    obtain ⟨_, e⟩ | ⟨_, e⟩ := exec_poll_cases s <;> cases e.symm.trans h
    · exact (mailbox_taken ..).symm
    · exact hm
  | encConfigResponse index v => cases h; exact hm
  | encCurrentSet v => cases h; exact hm
  | resetDecoder => cases h; exact hm

/-- Every step keeps the two invariants together. -/
theorem step_keeps_inv_mailboxOk {s t : State} (h : s.Inv ∧ s.MailboxOk) (hstep : step s = .next t) :
    t.Inv ∧ t.MailboxOk :=
  step_keeps (P := fun u => u.Inv ∧ u.MailboxOk) (fun _ _ ⟨hinv, hm⟩ => ⟨⟨hinv.dec, hinv.slot⟩, hm⟩)
    (fun _ _ _ ⟨hinv, hm⟩ he => ⟨exec_keeps_inv hinv he, exec_keeps_mailboxOk hinv hm he⟩) h hstep

/-- A block just constructed: no frame is open, nothing is unread, and the history is empty. -/
theorem State.IsReset.inv_mailboxOk {c : Config} {s : State} (h : s.IsReset c) : s.Inv ∧ s.MailboxOk := by
  obtain ⟨hcfg, hstate, hunread, -, -, hevents, hbuf, hpayload⟩ := h
  refine ⟨⟨Decoder.ok_of_awaitingSync hstate (hcfg ▸ hbuf), hcfg ▸ hpayload, fun hu => ?_⟩, ?_⟩
  · exact absurd (hunread.symm.trans hu) Bool.false_ne_true
  · rw [State.MailboxOk, Slot.ready_of_taken hunread, hevents]
    rfl

/-- Settles O43, by induction over the run: the slot holds what the mailbox holds, and POLL reports the slot. -/
theorem pollReturnsNewestCommand : Obligations.PollReturnsNewestCommand := by
  intro k c s t hreset hrun
  obtain ⟨-, hmailbox⟩ := SafeRun.induction (P := fun u => u.Inv ∧ u.MailboxOk)
    (fun _ _ => step_keeps_inv_mailboxOk) hreset.inv_mailboxOk hrun
  rw [State.MailboxOk] at hmailbox
  rw [← hmailbox]
  exact exec_poll_reports_ready t

/-- What a mailbox holds after some events, it held before or one of them put there. -/
theorem mem_of_foldl_mailboxStep {es : List Event} {m : Option Command} {c : Command}
    (h : es.foldl mailboxStep m = some c) : m = some c ∨ .accepted c ∈ es := by
  induction es generalizing m with
  | nil => exact .inl h
  | cons e es ih =>
    obtain hstep | hmem := ih h
    · cases e with
      | accepted c' => exact .inr (by rw [Option.some.inj hstep]; exact List.mem_cons_self)
      | taken c' => cases hstep
      | desync => exact .inl hstep
      | checksumMismatch => exact .inl hstep
      | lengthOverflow => exact .inl hstep
    · exact .inr (List.mem_cons_of_mem e hmem)

/-- Only an accepted frame fills the mailbox (R88). -/
theorem accepted_mem_of_mailbox {es : List Event} {c : Command} (h : mailbox es = some c) : .accepted c ∈ es :=
  (mem_of_foldl_mailboxStep h).resolve_left (Option.some_ne_none c).symm

/-- Settles O44: POLL reports the slot's Command, which is the mailbox's, and one accepted frame put it there. -/
theorem polledCommandIsOneAcceptedFrame : Obligations.PolledCommandIsOneAcceptedFrame := by
  intro s _ hmailbox hunread
  have hready := Slot.ready_of_unread hunread
  obtain ⟨t, hpoll, hresults, -⟩ := exec_poll_reports_ready s
  rw [hready] at hresults
  exact ⟨s.slot.command, t, accepted_mem_of_mailbox (hmailbox.symm.trans hready), hpoll, hresults⟩

end Sys2Proof.Machine
end

section
namespace Sys2Proof.Machine

/-! POLL and the decoder (spec/41_handoff.md R91): decoding does not depend on the fields POLL writes. -/

/-- The block with another slot, other results and another history: the fields POLL writes. -/
def State.withHandoff (sl : Slot) (rs : List (List Byte)) (es : List Event) (s : State) : State :=
  { s with slot := sl, results := rs, events := es }

theorem exec_poll_writes_handoff {s p : State} (h : exec .poll s = .next p) :
    p = s.withHandoff p.slot p.results p.events := by
  obtain ⟨_, e⟩ | ⟨_, e⟩ := exec_poll_cases s <;> cases e.symm.trans h <;> rfl

/-- Whatever slot, results and history a byte meets, it makes the same transition and adds the same events. -/
theorem stepByte_withHandoff (b : Byte) (s : State) (sl : Slot) (rs : List (List Byte)) (es : List Event) :
    ∃ sl' ev, (stepByte b s).events = s.events ++ ev ∧
      stepByte b (s.withHandoff sl rs es) = (stepByte b s).withHandoff sl' rs (es ++ ev) := by
  obtain ⟨hs, hb, e⟩ | ⟨hs, hb, e⟩ | ⟨hs, e⟩ | ⟨hs, hb, e⟩ | ⟨hs, hb, e⟩ | ⟨hs, e⟩ | ⟨hs, hb, e⟩ | ⟨hs, hb, e⟩ :=
    stepByte_cases b s <;> rw [e]
  case inl =>
    rw [(stepInAwaitingSync b (s.withHandoff sl rs es) hs).1 hb]
    exact ⟨sl, [], by simp, by simp [State.withHandoff]⟩
  case inr.inl =>
    exact ⟨sl, [.desync], rfl, (stepInAwaitingSync b (s.withHandoff sl rs es) hs).2 hb⟩
  case inr.inr.inl =>
    rw [stepByte_type (s := s.withHandoff sl rs es) hs]
    exact ⟨sl, [], by simp [stepType], by simp [stepType, State.withHandoff]⟩
  case inr.inr.inr.inl =>
    exact ⟨sl, [.lengthOverflow], rfl, stepByte_rejectLength (s := s.withHandoff sl rs es) hs hb⟩
  case inr.inr.inr.inr.inl =>
    rw [stepByte_takeLength (s := s.withHandoff sl rs es) hs hb]
    exact ⟨sl, [], by simp, by simp [State.withHandoff]⟩
  case inr.inr.inr.inr.inr.inl =>
    rw [stepByte_payload (s := s.withHandoff sl rs es) hs]
    exact ⟨sl, [], by simp, by simp [stepPayload, State.withHandoff]⟩
  case inr.inr.inr.inr.inr.inr.inl =>
    exact ⟨_, [.accepted s.dec.command], rfl, stepByte_accept (s := s.withHandoff sl rs es) hs hb⟩
  case inr.inr.inr.inr.inr.inr.inr =>
    exact ⟨sl, [.checksumMismatch], rfl, stepByte_reject (s := s.withHandoff sl rs es) hs hb⟩

theorem ingestBytes_withHandoff (data : List Byte) (s : State) (sl : Slot) (rs : List (List Byte))
    (es : List Event) :
    ∃ sl' ev, (ingestBytes data s).events = s.events ++ ev ∧
      ingestBytes data (s.withHandoff sl rs es) = (ingestBytes data s).withHandoff sl' rs (es ++ ev) := by
  induction data generalizing s sl es with
  | nil => exact ⟨sl, [], by simp, by simp⟩
  | cons b bs ih =>
    obtain ⟨sl₁, ev₁, hevents₁, hstep⟩ := stepByte_withHandoff b s sl rs es
    obtain ⟨sl₂, ev₂, hevents₂, hrest⟩ := ih (stepByte b s) sl₁ (es ++ ev₁)
    refine ⟨sl₂, ev₁ ++ ev₂, ?_, ?_⟩
    · rw [ingestBytes_cons, hevents₂, hevents₁, List.append_assoc]
    · rw [ingestBytes_cons, hstep, hrest, List.append_assoc, ingestBytes_cons]

theorem perCallReset_withHandoff (s : State) (sl : Slot) (rs : List (List Byte)) (es : List Event) :
    perCallReset (s.withHandoff sl rs es) = (perCallReset s).withHandoff sl rs es := by
  obtain ⟨h, e⟩ | ⟨h, e⟩ := perCallReset_cases s <;> rw [e]
  · exact if_pos h
  · exact if_neg (ne_true_of_eq_false h)

/-- Settles O45: POLL writes the handoff fields only, and INGEST decodes alike whatever they hold. -/
theorem pollNeverChangesDecoding : Obligations.PollNeverChangesDecoding := by
  intro s p u v data hpoll hu hv
  have hp := exec_poll_writes_handoff hpoll
  obtain ⟨sl, ev, hevents, hingest⟩ :=
    ingestBytes_withHandoff data (perCallReset s) p.slot p.results p.events
  rw [← perCallReset_withHandoff, ← hp] at hingest
  have hdec : p.dec = s.dec := by rw [hp]; rfl
  obtain ⟨-, -, -, -, -, hreset, -⟩ := perCallReset_frame s
  cases hu
  cases hv
  rw [hingest]
  exact ⟨hdec, rfl, ev, hreset ▸ hevents, rfl⟩

end Sys2Proof.Machine
end

section
namespace Sys2Proof.Machine

/-! POLL and RESET_DECODER issued and run (spec/41_handoff.md R85, R87), with the examples of both rules. -/

/-- The request that issues POLL: OP = 1 and nothing else (R57). -/
theorem decode_poll (c : Config) (a : Agent) : decode c ⟨a, 0x000000000001, []⟩ = .ok .poll := by
  have hdecode : decode c (encode a .poll) = .ok .poll := by
    simp [decode, encode, Instr.op, Instr.idx, Instr.arg, Instr.data, decodePlain_eq_ok_iff]
  exact hdecode

/-- Settles O41: the two cases of POLL; in the example the slot has latched the empty frame, and the first POLL
leaves nothing unread for the second. -/
theorem pollTakesReadyCommand : Obligations.PollTakesReadyCommand := by
  refine ⟨fun s hs => ?_, fun s hs => ?_, decode_poll, fun c s hreset => ?_⟩
  · obtain ⟨_, e⟩ | ⟨h, _⟩ := exec_poll_cases s
    · exact e
    · exact absurd (h.symm.trans hs) Bool.false_ne_true
  · obtain ⟨h, _⟩ | ⟨_, e⟩ := exec_poll_cases s
    · exact absurd (hs.symm.trans h) Bool.false_ne_true
    · exact e
  · obtain ⟨d, hingest, hcommand⟩ := exec_ingest_rxFrame (.inr hreset.decState) 0x02 (p := [])
      (Nat.zero_le _) (Nat.zero_le _)
    have hready : (acceptFrame { s with dec := d }).slot.ready = some ⟨0x02, 0, []⟩ := by
      rw [acceptFrame_slot, hcommand]
      exact Slot.ready_latch _ _ rfl
    obtain ⟨u, hfirst, hu, htaken⟩ := exec_poll_reports_ready (acceptFrame { s with dec := d })
    obtain ⟨v, hsecond, hv, -⟩ := exec_poll_reports_ready u
    refine ⟨_, u, v, hingest, hfirst, hsecond, ?_⟩
    rw [hv, hu, hready, Slot.ready_of_taken htaken, List.append_assoc]
    rfl

/-- In AwaitingSync the recovery changes nothing. -/
theorem Decoder.resync_of_awaitingSync {d : Decoder} (h : d.state = .awaitingSync) : d.resync = d := by
  rw [Decoder.resync, ← h]

theorem State.resync_of_awaitingSync {s : State} (h : s.dec.state = .awaitingSync) : s.resync = s := by
  rw [State.resync, Decoder.resync_of_awaitingSync h]

/-- The request that issues RESET_DECODER: OP = 4 and nothing else (R57). -/
theorem decode_resetDecoder (c : Config) (a : Agent) : decode c ⟨a, 0x000000000004, []⟩ = .ok .resetDecoder := by
  have hdecode : decode c (encode a .resetDecoder) = .ok .resetDecoder := by
    simp [decode, encode, Instr.op, Instr.idx, Instr.arg, Instr.data, decodePlain_eq_ok_iff]
  exact hdecode

/-- With RESET_ON_DELIVERY = false an INGEST is its bytes alone (R67, R79). -/
theorem exec_ingest_of_keeps {s : State} (h : s.cfg.resetOnDelivery = false) (data : List Byte) :
    exec (.ingest data) s = .next (ingestBytes data s) := by
  rw [exec_ingest, perCallReset, if_neg (ne_true_of_eq_false h)]

/-- A partial frame that RESET_DECODER discards: the bytes delivered after it are met in AwaitingSync, so without a
SYNC among them each is dropped (R69, R87). -/
theorem exec_ingest_after_resync {s : State} (h : s.cfg.resetOnDelivery = false) {data : List Byte}
    (hdata : ∀ b ∈ data, b ≠ syncByte) :
    exec (.ingest data) s.resync =
      .next { s.resync with events := s.events ++ List.replicate data.length .desync } := by
  rw [exec_ingest_of_keeps (s := s.resync) h, ingestBytes_desync data s.resync rfl hdata]
  rfl

/-- Settles O46: RESET_DECODER is the recovery; in the example the frame it discards leaves two stray bytes. -/
theorem resetDecoderWritesDecStateOnly : Obligations.ResetDecoderWritesDecStateOnly := by
  refine ⟨exec_resetDecoder, decode_resetDecoder, fun s hs => ?_, fun s hs => ?_, fun c s hreset hkeeps => ?_⟩
  · rw [exec_resetDecoder, State.resync_of_awaitingSync hs]
  · rw [exec_resetDecoder, exec_ingest, ingestBytes_nil, perCallReset, if_pos hs]
  · have hcfg : s.cfg.resetOnDelivery = false := by rw [hreset.cfg, hkeeps]
    have hopen : exec (.ingest [0xAA, 0x02]) s = .next { s with dec := s.dec.opened 0x02 } := by
      rw [exec_ingest_of_keeps hcfg]
      exact congrArg Host.Outcome.next (ingestBytes_syncType hreset.decState 0x02 [])
    have hstray := exec_ingest_after_resync (s := { s with dec := s.dec.opened 0x02 }) hcfg
      (data := [0x00, 0x02]) (by decide)
    exact ⟨_, _, _, hopen, exec_resetDecoder _, hstray, rfl, by rw [hreset.events]; rfl⟩

end Sys2Proof.Machine
end

section
namespace Sys2Proof

/-! The requests of the encoder operations (spec/42_encoder.md R92, R93): OP, IDX and ARG as numbers. -/

/-- R57 in numbers: RSV = 0 leaves ARG, IDX and OP at bits 16, 8 and 0. -/
theorem packHeader_eq_ofNat (arg : Word) (idx : Byte) (op : BitVec 3) :
    packHeader arg idx op = BitVec.ofNat 48 (arg.toNat * 2 ^ 16 + idx.toNat * 2 ^ 8 + op.toNat) :=
  calc packHeader arg idx op
    _ = BitVec.ofNat 48 (packHeader arg idx op).toNat := by simp
    _ = _ := by rw [toNat_packHeader]; rfl

theorem decode_encode_configResponse (c : Config) (a : Agent) (index : Byte) (v : Word) :
    decode c (encode a (.encConfigResponse index v)) = .ok (.encConfigResponse index v) := by
  simp [decode, encode, Instr.op, Instr.idx, Instr.arg, Instr.data, decodeConfigResponse_eq_ok_iff]

theorem decode_encode_currentSet (c : Config) (a : Agent) (v : Word) :
    decode c (encode a (.encCurrentSet v)) = .ok (.encCurrentSet v) := by
  simp [decode, encode, Instr.op, Instr.idx, Instr.arg, Instr.data, decodeCurrentSet_eq_ok_iff]

theorem encode_configResponse_eq (a : Agent) (index : Byte) (v : Word) :
    encode a (.encConfigResponse index v) =
      ⟨a, BitVec.ofNat 48 (v.toNat * 2 ^ 16 + index.toNat * 2 ^ 8 + 2), []⟩ :=
  congrArg (Request.mk a · []) (packHeader_eq_ofNat v index 2)

theorem encode_currentSet_eq (a : Agent) (v : Word) :
    encode a (.encCurrentSet v) = ⟨a, BitVec.ofNat 48 (v.toNat * 2 ^ 16 + 3), []⟩ :=
  congrArg (Request.mk a · []) (show packHeader v 0 3 = _ by simpa using packHeader_eq_ofNat v 0 3)

end Sys2Proof
end

section
namespace Sys2Proof.Machine

/-! The frames the encoder sends (spec/42_encoder.md R92-R94, R97). -/

/-- R92's checksum, the sum written out from TYPE to the last value byte. -/
theorem sum8_configResponseBody (index : Byte) (v : Word) :
    sum8 (configResponseBody index v) = BitVec.ofNat 8 (3 + index.toNat + (v.extractLsb' 0 8).toNat +
      (v.extractLsb' 8 8).toNat + (v.extractLsb' 16 8).toNat + (v.extractLsb' 24 8).toNat) := by
  have htype : cfgRspType.toNat = 3 := rfl
  simp [sum8, configResponseBody, valueBytes, htype, Nat.add_assoc]

/-- R93's checksum, likewise. -/
theorem sum8_currentSetBody (c : Config) (v : Word) :
    sum8 (currentSetBody c v) = BitVec.ofNat 8 (c.curSetType.toNat + (v.extractLsb' 0 8).toNat +
      (v.extractLsb' 8 8).toNat + (v.extractLsb' 16 8).toNat + (v.extractLsb' 24 8).toNat) := by
  simp [sum8, currentSetBody, valueBytes, Nat.add_assoc]

/-- Settles O47: the frame is SYNC, the body and the body's sum, and the request is the encoded one. -/
theorem configResponseIsTransmitted : Obligations.ConfigResponseIsTransmitted := by
  refine ⟨fun index v s => ?_, fun c a index v => ?_, fun s => ?_⟩
  · rw [exec_encConfigResponse, txFrame, sum8_configResponseBody]
    rfl
  · rw [← encode_configResponse_eq]
    exact decode_encode_configResponse c a index v
  · have hframe : txFrame (configResponseBody 3 0x3FC00000) =
        [0xAA, 0x03, 0x03, 0x00, 0x00, 0xC0, 0x3F, 0x05] := by decide
    rw [exec_encConfigResponse, hframe]
    rfl

/-- Settles O48: as O47, with the TYPE byte the parameter CUR_SET_TYPE. -/
theorem currentSetIsTransmitted : Obligations.CurrentSetIsTransmitted := by
  refine ⟨fun v s => ?_, rfl, fun c a v => ?_, fun s htype => ?_⟩
  · rw [exec_encCurrentSet, txFrame, sum8_currentSetBody]
    rfl
  · rw [← encode_currentSet_eq]
    exact decode_encode_currentSet c a v
  · have hframe : txFrame (currentSetBody s.cfg 0x3FC00000) = [0xAA, 0x05, 0x00, 0x00, 0xC0, 0x3F, 0x04] := by
      rw [currentSetBody, htype]
      decide
    rw [exec_encCurrentSet, hframe]
    rfl

/-- Settles O49: the body is the operation's own, and its length is read off its definition. -/
theorem transmittedFrameShape : Obligations.TransmittedFrameShape := by
  rintro i s (⟨index, v, rfl⟩ | ⟨v, rfl⟩)
  · exact ⟨configResponseBody index v, _, exec_encConfigResponse index v s, rfl, fun _ => rfl, nofun⟩
  · exact ⟨currentSetBody s.cfg v, _, exec_encCurrentSet v s, rfl, nofun, fun _ => rfl⟩

end Sys2Proof.Machine
end

section
namespace Sys2Proof.Machine

/-! The encoder and the other operations (spec/42_encoder.md R96): an encoder operation is one Transmit of a
frame that only the operation and the configuration fix, and Transmit passes every byte, the per-call reset and
the take. -/

/-- An operation that sends a frame does nothing else. -/
theorem exec_of_sentFrame {i : Instr} {s : State} {f : List Byte} (h : sentFrame s.cfg i = some f) :
    exec i s = .next (transmit f s) := by
  cases i with
  | encConfigResponse index v => cases h; rfl
  | encCurrentSet v => cases h; rfl
  | ingest data => cases h
  | poll => cases h
  | resetDecoder => cases h

theorem stepByte_transmit (b : Byte) (f : List Byte) (s : State) :
    stepByte b (transmit f s) = transmit f (stepByte b s) := by
  cases hs : s.dec.state with
  | awaitingSync =>
    rw [stepByte_awaitingSync hs, stepByte_awaitingSync (s := transmit f s) hs,
      stepAwaitingSync, stepAwaitingSync, apply_ite (transmit f)]
    rfl
  | readingType => rw [stepByte_type hs, stepByte_type (s := transmit f s) hs]; rfl
  | readingLength =>
    rw [stepByte_length hs, stepByte_length (s := transmit f s) hs,
      stepLength, stepLength, apply_ite (transmit f)]
    rfl
  | readingPayload => rw [stepByte_payload hs, stepByte_payload (s := transmit f s) hs]; rfl
  | readingChecksum =>
    rw [stepByte_checksum hs, stepByte_checksum (s := transmit f s) hs,
      stepChecksum, stepChecksum, apply_ite (transmit f)]
    rfl

theorem ingestBytes_transmit (data : List Byte) (f : List Byte) (s : State) :
    ingestBytes data (transmit f s) = transmit f (ingestBytes data s) := by
  induction data generalizing s with
  | nil => rfl
  | cons b bs ih => rw [ingestBytes_cons, stepByte_transmit, ih, ingestBytes_cons]

theorem perCallReset_transmit (f : List Byte) (s : State) :
    perCallReset (transmit f s) = transmit f (perCallReset s) := by
  obtain ⟨h, e⟩ | ⟨h, e⟩ := perCallReset_cases s <;> rw [e]
  · exact if_pos h
  · exact if_neg (ne_true_of_eq_false h)

/-- POLL takes or reports alike whatever TXLOG holds. -/
theorem exec_poll_transmit {s u : State} (f : List Byte) (h : exec .poll s = .next u) :
    exec .poll (transmit f s) = .next (transmit f u) := by
  obtain ⟨htakes, hreports, -⟩ := pollTakesReadyCommand
  obtain ⟨hs, e⟩ | ⟨hs, e⟩ := exec_poll_cases s <;> cases e.symm.trans h
  · exact htakes (transmit f s) hs
  · exact hreports (transmit f s) hs

/-- An operation that sends no frame leaves TXLOG alone. -/
theorem exec_keeps_txlog {i : Instr} {s t : State} (hi : sentFrame s.cfg i = none) (h : exec i s = .next t) :
    t.txlog = s.txlog := by
  cases i with
  | ingest data =>
    obtain ⟨-, -, htxlog, -⟩ := perCallReset_frame s
    cases h
    exact (ingestBytes_txlog data _).trans htxlog
  | poll => obtain ⟨_, e⟩ | ⟨_, e⟩ := exec_poll_cases s <;> cases e.symm.trans h <;> rfl
  | resetDecoder => cases h; rfl
  | encConfigResponse index v => cases hi
  | encCurrentSet v => cases hi

/-- An operation that sends no frame does the same before and after a Transmit. -/
theorem exec_transmit {i : Instr} {s t : State} (hi : sentFrame s.cfg i = none) (h : exec i s = .next t)
    (f : List Byte) : exec i (transmit f s) = .next (transmit f t) := by
  cases i with
  | ingest data =>
    cases h
    rw [exec_ingest, perCallReset_transmit, ingestBytes_transmit]
  | poll => exact exec_poll_transmit f h
  | resetDecoder => cases h; rfl
  | encConfigResponse index v => cases hi
  | encCurrentSet v => cases hi

/-- Settles O51: the encoder operation is a Transmit, whose frame the other operation leaves as it is, since it
keeps the configuration; and the other operation passes the Transmit. -/
theorem encoderAndDecoderIndependent : Obligations.EncoderAndDecoderIndependent := by
  intro e o s s₁ s₂ he ho h₁ h₂
  obtain ⟨f, hf⟩ : ∃ f, sentFrame s.cfg e = some f := by
    obtain ⟨_, _, rfl⟩ | ⟨_, rfl⟩ := he <;> exact ⟨_, rfl⟩
  have hnone : sentFrame s.cfg o = none := by
    obtain ⟨_, rfl⟩ | rfl | rfl := ho <;> rfl
  have hf₂ : sentFrame s₂.cfg e = some f := by rw [exec_keeps_cfg h₂, hf]
  cases (exec_of_sentFrame hf).symm.trans h₁
  exact ⟨rfl, rfl, exec_keeps_txlog hnone h₂, by rw [exec_transmit hnone h₂, exec_of_sentFrame hf₂]⟩

end Sys2Proof.Machine
end

section
namespace Sys2Proof.Machine

/-- The decoder reads a request's header and data only, never who issued it. -/
theorem decode_agent_irrelevant (c : Config) (a b : Agent) (h : Header) (data : List Byte) :
    decode c ⟨a, h, data⟩ = decode c ⟨b, h, data⟩ := rfl

/-- Two requests that decode alike are one to a step: it no longer sees the request after decoding it. -/
theorem step_cons_eq_of_decode_eq {s : State} {r r' : Request} (hd : decode s.cfg r = decode s.cfg r')
    (rest : List Request) : step { s with requests := r :: rest } = step { s with requests := r' :: rest } := by
  cases hr : decode s.cfg r' with
  | error why =>
    rw [step_of_decode_error (s := { s with requests := r :: rest }) rfl (hd.trans hr),
      step_of_decode_error (s := { s with requests := r' :: rest }) rfl hr]
  | ok i =>
    rw [step_of_decode (s := { s with requests := r :: rest }) rfl (hd.trans hr),
      step_of_decode (s := { s with requests := r' :: rest }) rfl hr]

/-- Settles O14: the assignment is R111's table, and a request decodes alike whoever issued it. -/
theorem issuingAgentIsNotChecked : Obligations.IssuingAgentIsNotChecked :=
  ⟨fun _ => rfl, rfl, rfl, fun _ _ => rfl, fun _ => rfl,
    fun s a b h data rest => step_cons_eq_of_decode_eq (decode_agent_irrelevant s.cfg a b h data) rest⟩

end Sys2Proof.Machine
end

section
namespace Sys2Proof.Machine

/-! A stretch of INGESTs as a run (spec/40_decoder.md R67, R79, spec/20_memory.md R46): one delivery after the other,
since the decoder does not read the requests still pending. -/

/-- The block with other requests pending. -/
def State.withRequests (rs : List Request) (s : State) : State := { s with requests := rs }

/-- A byte does the same whatever is pending. -/
theorem stepByte_withRequests (b : Byte) (rs : List Request) (s : State) :
    stepByte b (s.withRequests rs) = (stepByte b s).withRequests rs := by
  obtain ⟨hs, hb, e⟩ | ⟨hs, hb, e⟩ | ⟨hs, e⟩ | ⟨hs, hb, e⟩ | ⟨hs, hb, e⟩ | ⟨hs, e⟩ | ⟨hs, hb, e⟩ | ⟨hs, hb, e⟩ :=
    stepByte_cases b s <;> rw [e]
  case inl => exact (stepInAwaitingSync b (s.withRequests rs) hs).1 hb
  case inr.inl => exact (stepInAwaitingSync b (s.withRequests rs) hs).2 hb
  case inr.inr.inl => exact stepByte_type (s := s.withRequests rs) hs b
  case inr.inr.inr.inl => exact stepByte_rejectLength (s := s.withRequests rs) hs hb
  case inr.inr.inr.inr.inl => exact stepByte_takeLength (s := s.withRequests rs) hs hb
  case inr.inr.inr.inr.inr.inl => exact stepByte_payload (s := s.withRequests rs) hs b
  case inr.inr.inr.inr.inr.inr.inl => exact stepByte_accept (s := s.withRequests rs) hs hb
  case inr.inr.inr.inr.inr.inr.inr => exact stepByte_reject (s := s.withRequests rs) hs hb

theorem ingestBytes_withRequests (data : List Byte) (rs : List Request) (s : State) :
    ingestBytes data (s.withRequests rs) = (ingestBytes data s).withRequests rs := by
  induction data generalizing s with
  | nil => rfl
  | cons b bs ih => rw [ingestBytes_cons, stepByte_withRequests, ih, ingestBytes_cons]

theorem perCallReset_withRequests (rs : List Request) (s : State) :
    perCallReset (s.withRequests rs) = (perCallReset s).withRequests rs := by
  obtain ⟨h, e⟩ | ⟨h, e⟩ := perCallReset_cases s <;> rw [e]
  · exact if_pos h
  · exact if_neg (ne_true_of_eq_false h)

/-- INGEST of each delivery in turn, each with its own per-call reset. -/
def ingestEach : List (List Byte) → State → State
  | [], s => s
  | d :: ds, s => ingestEach ds (ingestBytes d (perCallReset s))

/-- A run over pending INGESTs within MAX_DELIVERY delivers each in turn, and leaves nothing pending. -/
theorem SafeRun.eq_ingestEach {chunks : List (List Byte)} {s u : State}
    (hmax : ∀ d ∈ chunks, d.length ≤ s.cfg.maxDelivery.val)
    (hr : s.requests = chunks.map (fun d => encode .receive (.ingest d))) (hrun : SafeRun chunks.length s u) :
    u = ingestEach chunks (s.withRequests []) := by
  induction chunks generalizing s with
  | nil =>
    have hnone : s.withRequests [] = s := by rw [State.withRequests, ← show s.requests = [] from hr]
    rw [ingestEach, hnone, (safeRun_zero s u).1 hrun]
  | cons d ds ih =>
    obtain ⟨v, hstep, hrest⟩ := (safeRun_succ ds.length s u).1 hrun
    obtain ⟨hd, hds⟩ := List.forall_mem_cons.1 hmax
    have hv : v = (ingestBytes d (perCallReset s)).withRequests
        (ds.map fun d => encode .receive (.ingest d)) := by
      rw [← ingestBytes_withRequests, ← perCallReset_withRequests]
      cases (step_of_decode hr (decode_encode_ingest hd .receive)).symm.trans hstep
      rfl
    rw [ih (step_keeps_cfg hstep ▸ hds) (congrArg State.requests hv) hrest, hv, ingestEach,
      perCallReset_withRequests, ingestBytes_withRequests]
    rfl

/-- Without the per-call reset the cuts between the deliveries do not show (R79). -/
theorem ingestEach_of_keeps {s : State} (h : s.cfg.resetOnDelivery = false) (chunks : List (List Byte)) :
    ingestEach chunks s = ingestBytes chunks.flatten s := by
  induction chunks generalizing s with
  | nil => rfl
  | cons d ds ih =>
    have hkeep : perCallReset s = s := if_neg (ne_true_of_eq_false h)
    rw [ingestEach, hkeep, ih (by rw [ingestBytes_cfg]; exact h), List.flatten_cons, ingestBytes_append]

end Sys2Proof.Machine
end

section
namespace Sys2Proof.Machine

/-! How long a delivery must be for a Command to be accepted in it (spec/70_reset_and_hazards.md R119): a frame is
read from SYNC to CHECKSUM, one byte at a time. -/

/-- How many bytes of the open frame the decoder has read, SYNC included (R16, R50). -/
def Decoder.frameBytesRead (d : Decoder) : Nat :=
  match d.state with
  | .awaitingSync => 0
  | .readingType => 1
  | .readingLength => 2
  | .readingPayload => 3 + d.cnt.toNat
  | .readingChecksum => 3 + d.len.toNat

theorem Decoder.frameBytesRead_awaitingSync {d : Decoder} (h : d.state = .awaitingSync) : d.frameBytesRead = 0 := by
  rw [frameBytesRead, h]

theorem Decoder.frameBytesRead_readingType {d : Decoder} (h : d.state = .readingType) : d.frameBytesRead = 1 := by
  rw [frameBytesRead, h]

theorem Decoder.frameBytesRead_readingLength {d : Decoder} (h : d.state = .readingLength) : d.frameBytesRead = 2 := by
  rw [frameBytesRead, h]

theorem Decoder.frameBytesRead_readingPayload {d : Decoder} (h : d.state = .readingPayload) :
    d.frameBytesRead = 3 + d.cnt.toNat := by
  rw [frameBytesRead, h]

theorem Decoder.frameBytesRead_readingChecksum {d : Decoder} (h : d.state = .readingChecksum) :
    d.frameBytesRead = 3 + d.len.toNat := by
  rw [frameBytesRead, h]

/-- After the LENGTH byte, three bytes are read, whichever state it opens (R71). -/
theorem Decoder.frameBytesRead_takeLength (b : Byte) (d : Decoder) : (takeLength b d).frameBytesRead = 3 := by
  by_cases hb : b = 0
  · rw [frameBytesRead_readingChecksum (if_pos hb), takeLength_len, hb]
    rfl
  · rw [frameBytesRead_readingPayload (if_neg hb)]
    rfl

/-- A payload byte is one more byte read, be it the last or not (R73). -/
theorem Decoder.Ok.frameBytesRead_storePayload {cap : Nat} {d : Decoder} (h : d.Ok cap)
    (hs : d.state = .readingPayload) (b : Byte) :
    (Machine.storePayload b d).frameBytesRead = d.frameBytesRead + 1 := by
  rw [frameBytesRead_readingPayload hs, Nat.add_assoc, ← h.cnt_succ hs]
  by_cases hlast : d.cnt + 1 = d.len
  · rw [frameBytesRead_readingChecksum (if_pos hlast), storePayload_len, hlast]
  · rw [frameBytesRead_readingPayload (if_neg hlast), storePayload_cnt]

/-- One byte reads at most one byte further into the frame: every recovery starts over at 0. -/
theorem stepByte_frameBytesRead_le {s : State} (hinv : s.Inv) (b : Byte) :
    (stepByte b s).dec.frameBytesRead ≤ s.dec.frameBytesRead + 1 := by
  obtain ⟨_, _, e⟩ | ⟨_, _, e⟩ | ⟨hs, e⟩ | ⟨_, _, e⟩ | ⟨hs, _, e⟩ | ⟨hs, e⟩ | ⟨_, _, e⟩ | ⟨_, _, e⟩ :=
    stepByte_cases b s <;> rw [e]
  case inl => exact Nat.le_add_left 1 _
  case inr.inl => exact Nat.le_succ _
  case inr.inr.inl => exact (congrArg (· + 1) (Decoder.frameBytesRead_readingType hs)).ge
  case inr.inr.inr.inl => exact Nat.zero_le _
  case inr.inr.inr.inr.inl =>
    rw [Decoder.frameBytesRead_takeLength, Decoder.frameBytesRead_readingLength hs]
  case inr.inr.inr.inr.inr.inl => exact (hinv.dec.frameBytesRead_storePayload hs b).le
  case inr.inr.inr.inr.inr.inr.inl => exact Nat.zero_le _
  case inr.inr.inr.inr.inr.inr.inr => exact Nat.zero_le _

/-- From `s` to `u` the history has grown by some events, and no Command accepted in them needs a frame of more than
`n` bytes: SYNC, TYPE, LENGTH and CHECKSUM beside the payload. -/
def AcceptsFramesWithin (n : Nat) (s u : State) : Prop :=
  ∃ ev, u.events = s.events ++ ev ∧ ∀ c ∈ acceptedIn ev, 4 + c.length.toNat ≤ n

theorem acceptsFramesWithin_refl (n : Nat) (s : State) : AcceptsFramesWithin n s s :=
  ⟨[], (List.append_nil _).symm, nofun⟩

theorem AcceptsFramesWithin.trans {n : Nat} {s u v : State} (h₁ : AcceptsFramesWithin n s u)
    (h₂ : AcceptsFramesWithin n u v) : AcceptsFramesWithin n s v := by
  obtain ⟨ev₁, hev₁, hacc₁⟩ := h₁
  obtain ⟨ev₂, hev₂, hacc₂⟩ := h₂
  refine ⟨ev₁ ++ ev₂, by rw [hev₂, hev₁, List.append_assoc], fun c hc => ?_⟩
  rw [acceptedIn_append, List.mem_append] at hc
  exact hc.elim (hacc₁ c) (hacc₂ c)

theorem AcceptsFramesWithin.mono {m n : Nat} {s u : State} (h : AcceptsFramesWithin m s u) (hmn : m ≤ n) :
    AcceptsFramesWithin n s u := by
  obtain ⟨ev, hev, hacc⟩ := h
  exact ⟨ev, hev, fun c hc => (hacc c hc).trans hmn⟩

/-- The byte that accepts a Command is its CHECKSUM, the one byte missing of the frame. -/
theorem stepByte_acceptsFramesWithin (b : Byte) (s : State) :
    AcceptsFramesWithin (s.dec.frameBytesRead + 1) s (stepByte b s) := by
  obtain ⟨hevents, -, hs⟩ | ⟨ev, hevents, -, hempty, -, -⟩ := stepByte_event b s
  · refine ⟨_, hevents, fun c hc => ?_⟩
    rw [List.mem_singleton.1 (show c ∈ [s.dec.command] from hc), Decoder.command_length,
      Decoder.frameBytesRead_readingChecksum hs]
    omega
  · exact ⟨ev, hevents, fun c hc => by simp [hempty] at hc⟩

/-- A Command is accepted only once its whole frame is read, before the delivery or in it. -/
theorem ingestBytes_acceptsFramesWithin {s : State} (hinv : s.Inv) (data : List Byte) :
    AcceptsFramesWithin (s.dec.frameBytesRead + data.length) s (ingestBytes data s) := by
  induction data generalizing s with
  | nil => exact acceptsFramesWithin_refl _ s
  | cons b bs ih =>
    have hread := stepByte_frameBytesRead_le hinv b
    rw [List.length_cons]
    exact ((stepByte_acceptsFramesWithin b s).mono (by omega)).trans
      ((ih (stepByte_inv b s hinv)).mono (by omega))

/-- Under the per-call reset nothing was read before, so the frame lies in one delivery. -/
theorem ingestEach_acceptsFramesWithin {s : State} {n : Nat} (hinv : s.Inv) (hresets : s.cfg.resetOnDelivery = true)
    {chunks : List (List Byte)} (hlen : ∀ d ∈ chunks, d.length ≤ n) :
    AcceptsFramesWithin n s (ingestEach chunks s) := by
  induction chunks generalizing s with
  | nil => exact acceptsFramesWithin_refl n s
  | cons d ds ih =>
    obtain ⟨hd, hds⟩ := List.forall_mem_cons.1 hlen
    obtain ⟨hcfg, -, -, -, -, hevents, -⟩ := perCallReset_frame s
    have hread := Decoder.frameBytesRead_awaitingSync (perCallReset_inSync (.inl hresets))
    obtain ⟨ev, hev, hacc⟩ := ingestBytes_acceptsFramesWithin hinv.perCallReset d
    have hfirst : AcceptsFramesWithin n s (ingestBytes d (perCallReset s)) :=
      ⟨ev, hevents ▸ hev, fun c hc => (hacc c hc).trans (by omega)⟩
    exact hfirst.trans (ih (ingestBytes_inv d _ hinv.perCallReset) (by rw [ingestBytes_cfg, hcfg, hresets]) hds)

end Sys2Proof.Machine
end

section
namespace Sys2Proof.Machine

/-! A frame cut into pieces (spec/70_reset_and_hazards.md R119). -/

theorem length_le_length_flatten {ds : List (List Byte)} (hne : ∀ d ∈ ds, d ≠ []) :
    ds.length ≤ ds.flatten.length := by
  have hpos : ∀ n ∈ ds.map List.length, 1 ≤ n :=
    List.forall_mem_map.2 fun d hd => List.length_pos_iff.2 (hne d hd)
  simpa [List.length_flatten] using List.length_le_sum_of_one_le _ hpos

/-- Of two or more non-empty pieces, each is shorter than the whole. -/
theorem length_piece_lt {ds : List (List Byte)} (hne : ∀ d ∈ ds, d ≠ []) (htwo : 2 ≤ ds.length) {d : List Byte}
    (hd : d ∈ ds) : d.length < ds.flatten.length := by
  obtain ⟨before, after, rfl⟩ := List.append_of_mem hd
  have hbefore := length_le_length_flatten (ds := before) fun x hx => hne x (by simp [hx])
  have hafter := length_le_length_flatten (ds := after) fun x hx => hne x (by simp [hx])
  simp only [List.length_append, List.length_cons, List.flatten_append, List.flatten_cons] at htwo ⊢
  omega

theorem length_rxFrame (t : Byte) (p : List Byte) : (rxFrame t p).length = p.length + 4 := by
  simp [rxFrame]

/-- Settles O34: under the per-call reset each piece is too short for the frame's Command; without it the pieces are
read as the whole frame. -/
theorem splitFrameNeverAccepted : Obligations.SplitFrameNeverAccepted := by
  intro s u t p chunks ev hinv hp hchunks htwo hframe hr hrun hev
  have hu := hrun.eq_ingestEach (fun d hd => (hchunks d hd).2) hr
  refine ⟨fun hresets hmem => ?_, fun hkeeps hsync => ?_⟩
  · have hshort : ∀ d ∈ chunks, d.length ≤ p.length + 3 := fun d hd => by
      have hlt := length_piece_lt (fun x hx => (hchunks x hx).1) htwo hd
      rw [hframe, length_rxFrame] at hlt
      exact Nat.le_of_lt_succ hlt
    obtain ⟨ev', hev', hacc⟩ := ingestEach_acceptsFramesWithin (s := s.withRequests [])
      ⟨hinv.dec, hinv.slot⟩ hresets hshort
    have hsame : ev = ev' := List.append_cancel_left (hev.symm.trans (hu ▸ hev'))
    have hbound := hacc _ (hsame ▸ hmem)
    rw [toNat_lengthByte hp] at hbound
    omega
  · obtain ⟨d, hd, hcommand⟩ := ingestBytes_rxFrame (s := s.withRequests []) hsync t hp
      (hinv.dec.bufSize ▸ hp)
    rw [hu, ingestEach_of_keeps (s := s.withRequests []) hkeeps, hframe, hd, acceptFrame_slot, hcommand]
    exact Slot.ready_latch _ _ (toNat_lengthByte hp).symm

end Sys2Proof.Machine
end

section
namespace Sys2Proof

/-! Encoding and decoding of requests are inverse to each other (spec/30_encoding.md R57-R59). -/

/-- Settles O10, one arm of the decoder per operation. -/
theorem decodeOfEncode : Obligations.DecodeOfEncode := by
  intro c a i hwf
  cases i with
  | ingest data => exact Machine.decode_encode_ingest (of_decide_eq_true hwf) a
  | poll => exact Machine.decode_poll c a
  | encConfigResponse index v => exact decode_encode_configResponse c a index v
  | encCurrentSet v => exact decode_encode_currentSet c a v
  | resetDecoder => exact Machine.decode_resetDecoder c a

/-- What a request that decodes to an operation carries: RSV = 0 and that operation's own fields and data, within the
bounds of the interface format (R57-R59). -/
theorem fields_of_decode {c : Config} {r : Request} {i : Instr} (h : decode c r = .ok i) :
    reqRsv r.header = 0 ∧ reqOp r.header = i.op ∧ reqIdx r.header = i.idx ∧ reqArg r.header = i.arg ∧
      r.data = i.data ∧ i.wf c = true := by
  rw [decode] at h
  by_cases hrsv : reqRsv r.header = 0
  case neg => rw [if_pos hrsv] at h; cases h
  rw [if_neg (not_not.2 hrsv)] at h
  refine ⟨hrsv, ?_⟩
  split at h
  case h_1 hop =>
    obtain ⟨hidx, hlen, hmax, rfl⟩ := (decodeIngest_eq_ok_iff c r i).1 h
    exact ⟨BitVec.eq_of_toNat_eq hop, hidx, by simp [Instr.arg, hlen], rfl, decide_eq_true hmax⟩
  case h_2 hop =>
    obtain ⟨hidx, harg, hdata, rfl⟩ := (decodePlain_eq_ok_iff _ i r).1 h
    exact ⟨BitVec.eq_of_toNat_eq hop, hidx, harg, hdata, rfl⟩
  case h_3 hop =>
    obtain ⟨hdata, rfl⟩ := (decodeConfigResponse_eq_ok_iff r i).1 h
    exact ⟨BitVec.eq_of_toNat_eq hop, rfl, rfl, hdata, rfl⟩
  case h_4 hop =>
    obtain ⟨hidx, hdata, rfl⟩ := (decodeCurrentSet_eq_ok_iff r i).1 h
    exact ⟨BitVec.eq_of_toNat_eq hop, hidx, rfl, hdata, rfl⟩
  case h_5 hop =>
    obtain ⟨hidx, harg, hdata, rfl⟩ := (decodePlain_eq_ok_iff _ i r).1 h
    exact ⟨BitVec.eq_of_toNat_eq hop, hidx, harg, hdata, rfl⟩
  case h_6 => cases h

/-- Settles O11: the fields fixed by the decoding are all of the request. -/
theorem encodeOfDecode : Obligations.EncodeOfDecode := by
  intro c r i h
  obtain ⟨hrsv, hop, hidx, harg, hdata, hwf⟩ := fields_of_decode h
  have hheader : packHeader i.arg i.idx i.op = r.header := by
    rw [← harg, ← hidx, ← hop, packHeader_fields _ hrsv]
  exact ⟨hwf, by rw [encode, hheader, ← hdata]⟩

/-- A request that decodes has the data its header declares, within MAX_DELIVERY (R59, I16). -/
theorem declaredLength_of_decode {c : Config} {r : Request} {i : Instr} (h : decode c r = .ok i) :
    r.data.length = declaredLength r.header ∧ r.data.length ≤ c.maxDelivery.val := by
  obtain ⟨-, hop, -, harg, hdata, hwf⟩ := fields_of_decode h
  rw [declaredLength, hop, harg, hdata]
  cases i with
  | ingest data =>
    have hmax : data.length ≤ c.maxDelivery.val := of_decide_eq_true hwf
    exact ⟨(BitVec.toNat_ofNat .. |>.trans (Nat.mod_eq_of_lt (hmax.trans_lt c.maxDelivery.isLt))).symm, hmax⟩
  | poll => exact ⟨rfl, Nat.zero_le _⟩
  | encConfigResponse index v => exact ⟨rfl, Nat.zero_le _⟩
  | encCurrentSet v => exact ⟨rfl, Nat.zero_le _⟩
  | resetDecoder => exact ⟨rfl, Nat.zero_le _⟩

/-- Settles O9: a request that is not refused decodes, so its data are as many as declared and within the bound. -/
theorem dataOfWrongLengthRefused : Obligations.DataOfWrongLengthRefused := by
  intro s r rest hr hwrong
  refine (Machine.step_refused_iff hr).2 fun ⟨i, hi⟩ => ?_
  obtain ⟨hlen, hmax⟩ := declaredLength_of_decode hi
  exact hwrong.elim (fun hne => hne hlen) (fun hlt => Nat.not_lt.2 hmax hlt)

end Sys2Proof
end

section
namespace Sys2Proof

/-! The opcode table (spec/opcode_table.json): each of its masks keeps the low bits of a header up to a field's end. -/

/-- A header as a number is its fields at their bit positions (R57). -/
theorem toNat_header (h : Header) :
    h.toNat = (reqArg h).toNat * 2 ^ 16 + (reqIdx h).toNat * 2 ^ 8 + (reqRsv h).toNat * 2 ^ 3 + (reqOp h).toNat := by
  have := h.isLt
  simp only [reqArg, reqIdx, reqRsv, reqOp, BitVec.extractLsb'_toNat, Nat.shiftRight_eq_div_pow]
  omega

/-- A mask of the low `k` bits compares the header modulo `2 ^ k`. -/
theorem and_lowMask_eq_iff (h m : Header) {k : Nat} (hk : k ≤ 48) :
    h &&& BitVec.ofNat 48 (2 ^ k - 1) = m ↔
      ((reqArg h).toNat * 2 ^ 16 + (reqIdx h).toNat * 2 ^ 8 + (reqRsv h).toNat * 2 ^ 3 + (reqOp h).toNat) % 2 ^ k =
        m.toNat := by
  have hmask : (2 ^ k - 1) % 2 ^ 48 = 2 ^ k - 1 :=
    Nat.mod_eq_of_lt ((Nat.sub_lt (Nat.two_pow_pos k) Nat.one_pos).trans_le (Nat.pow_le_pow_right (by decide) hk))
  rw [← BitVec.toNat_inj, BitVec.toNat_and, BitVec.toNat_ofNat, hmask, Nat.and_two_pow_sub_one_eq_mod, ← toNat_header]

/-- A header matches a row exactly when it is admitted and carries the row's operation code: per row, the fields below
the end of its mask are the ones R58 asks to be 0. -/
theorem matches_row_iff (h : Header) {row : OpRow} (hrow : row ∈ opcodeTable) :
    h &&& row.mask = row.matchBits ↔ headerAdmitted h = true ∧ (reqOp h).toNat = row.matchBits.toNat := by
  have hadm : headerAdmitted h = true ↔ (reqOp h).toNat ≤ 4 ∧ reqRsv h = 0 ∧
      ((reqOp h).toNat = 2 ∨ reqIdx h = 0) ∧
      ((reqOp h).toNat = 0 ∨ (reqOp h).toNat = 2 ∨ (reqOp h).toNat = 3 ∨ reqArg h = 0) := by
    simp [headerAdmitted_iff, or_assoc]
  rw [hadm]
  simp only [opcodeTable, List.mem_cons, List.not_mem_nil, or_false] at hrow
  obtain rfl | rfl | rfl | rfl | rfl := hrow
  case inl => exact (and_lowMask_eq_iff h _ (k := 16) (by decide)).trans (by bv_omega)
  case inr.inl => exact (and_lowMask_eq_iff h _ (k := 48) (by decide)).trans (by bv_omega)
  case inr.inr.inl => exact (and_lowMask_eq_iff h _ (k := 8) (by decide)).trans (by bv_omega)
  case inr.inr.inr.inl => exact (and_lowMask_eq_iff h _ (k := 16) (by decide)).trans (by bv_omega)
  case inr.inr.inr.inr => exact (and_lowMask_eq_iff h _ (k := 48) (by decide)).trans (by bv_omega)

/-- The rows of the table with the operation code `n`. -/
def rowsOfOp (n : Nat) : List OpRow := opcodeTable.filter fun row => decide (n = row.matchBits.toNat)

theorem length_rowsOfOp : ∀ n < 8, (rowsOfOp n).length ≤ 1 := by decide

theorem rowsOfOp_ne_nil : ∀ n ≤ 4, rowsOfOp n ≠ [] := by decide

theorem rowsOfOp_op (i : Instr) : (rowsOfOp i.op.toNat).map OpRow.mnemonic = [i.mnemonic] := by
  cases i <;> rfl

theorem matchingRows_of_admitted {h : Header} (hadm : headerAdmitted h = true) :
    matchingRows h = rowsOfOp (reqOp h).toNat :=
  List.filter_congr fun row hrow => by simp only [matches_row_iff h hrow, hadm, true_and]

theorem matchingRows_of_not_admitted {h : Header} (hadm : headerAdmitted h = false) : matchingRows h = [] :=
  List.filter_eq_nil_iff.2 fun row hrow => by simp [matches_row_iff h hrow, hadm]

/-- An encoded header is admitted, whatever the operation (R58). -/
theorem headerAdmitted_encode (a : Agent) (i : Instr) : headerAdmitted (encode a i).header = true := by
  have hfields : Laws.EncodedFields.Statement i := by
    cases i with
    | ingest data => exact Laws.EncodedFields.ingest data
    | poll => exact Laws.EncodedFields.poll
    | encConfigResponse index v => exact Laws.EncodedFields.encConfigResponse index v
    | encCurrentSet v => exact Laws.EncodedFields.encCurrentSet v
    | resetDecoder => exact Laws.EncodedFields.resetDecoder
  obtain ⟨-, -, hadm⟩ := hfields a
  exact hadm

/-- Settles O12: an admitted header matches the rows with its operation code, of which there is one, any other header
none; a request that decodes is an encoding, so its header is admitted. -/
theorem opcodeTableAgreesWithDecoder : Obligations.OpcodeTableAgreesWithDecoder := by
  refine ⟨fun h => ?_, fun h => ?_, fun c r i hi => ?_⟩
  · cases hadm : headerAdmitted h with
    | true => exact matchingRows_of_admitted hadm ▸ length_rowsOfOp _ (reqOp h).isLt
    | false => exact matchingRows_of_not_admitted hadm ▸ Nat.zero_le 1
  · cases hadm : headerAdmitted h with
    | true =>
      obtain ⟨hop, -⟩ := (headerAdmitted_iff h).1 hadm
      simp [matchingRows_of_admitted hadm, rowsOfOp_ne_nil _ hop]
    | false => simp [matchingRows_of_not_admitted hadm]
  · obtain ⟨-, hop, -⟩ := fields_of_decode hi
    obtain ⟨-, hencode⟩ := encodeOfDecode c r i hi
    have hadm : headerAdmitted r.header = true := hencode ▸ headerAdmitted_encode r.agent i
    rw [matchingRows_of_admitted hadm, hop, rowsOfOp_op]

end Sys2Proof
end

section
namespace Sys2Proof.Machine

/-! The invariants along a step, and the reset state (spec/10_state.md R32, spec/20_memory.md R36,
spec/41_handoff.md R88). -/

/-- Settles O3: every operation keeps the invariant, which does not speak of the pending requests. -/
theorem stepKeepsInvariant : Obligations.StepKeepsInvariant := fun _ _ hinv hstep =>
  step_keeps (P := State.Inv) (fun _ _ h => ⟨h.dec, h.slot⟩) (fun _ _ _ => exec_keeps_inv) hinv hstep

/-- Settles O4: the two invariants are kept together. -/
theorem stepKeepsMailbox : Obligations.StepKeepsMailbox := fun _ _ hinv hmailbox hstep =>
  (step_keeps_inv_mailboxOk ⟨hinv, hmailbox⟩ hstep).2

/-- Settles O1: every register of R32 is read off `State.resetWith`, every parameter off `Config.hardware`. -/
theorem resetRegisters : Obligations.ResetRegisters :=
  ⟨fun _ =>
    { cfg := rfl, decState := rfl, unread := rfl, txlog := rfl, results := rfl, events := rfl
      bufSize := List.length_replicate
      payloadSize := List.length_replicate },
    rfl, rfl, rfl, rfl, rfl, rfl, rfl⟩

/-- Settles O2: no frame is open, nothing is unread, and the history is empty. -/
theorem resetMeetsInvariants : Obligations.ResetMeetsInvariants := fun _ _ hreset => hreset.inv_mailboxOk

/-- Settles O6. -/
theorem stepRunsDecodedRequest : Obligations.StepRunsDecodedRequest := fun _ _ _ _ hr hd _ => step_of_decode hr hd

/-- Settles O7: of what a step can do, only waiting needs no request. -/
theorem stepWithoutRequestWaits : Obligations.StepWithoutRequestWaits := by
  intro s hnone
  obtain ⟨_, e⟩ | ⟨_, _, _, hr, _⟩ | ⟨_, _, _, hr, _⟩ := step_cases s
  · exact e
  · cases hnone.symm.trans hr
  · cases hnone.symm.trans hr

/-- Settles O53. -/
theorem everyOperationCompletes : Obligations.EveryOperationCompletes := exec_completes

/-- Settles O13: the five headers are encodings of their operations; the other five each fail one check of R58. -/
theorem headerWordsDecode : Obligations.HeaderWordsDecode := by
  have hwf : (Instr.ingest [0xAA, 0x02, 0x00, 0x02]).wf Config.hardware = true := by decide
  exact ⟨decodeOfEncode _ .application _ hwf, decode_poll _ _, decode_encode_configResponse _ _ 0x03 0x3FC00000,
    decode_encode_currentSet _ _ 0x3FC00000, decode_resetDecoder _ _, rfl, rfl, rfl, rfl, rfl⟩

/-- Settles O50: byte `k` of the operand is its bits from `8 * k` on. -/
theorem valueBytesRebuildOperand : Obligations.ValueBytesRebuildOperand := by
  intro v
  refine ⟨_, _, _, _, rfl, ?_⟩
  simp only [BitVec.extractLsb'_toNat, Nat.shiftRight_eq_div_pow]
  omega

/-- Distinct states have distinct codes (R16). -/
theorem decState_code_injective (d e : DecState) : d.code = e.code → d = e := by
  cases d <;> cases e <;> decide

/-- Settles O59: the codes are counted off from 0, so 5 to 7 are not among them. -/
theorem decStateCodes : Obligations.DecStateCodes :=
  ⟨rfl, rfl, rfl, rfl, rfl, decState_code_injective, fun d => by cases d <;> decide⟩

end Sys2Proof.Machine
end

section
namespace Sys2Proof.Machine

/-! One frame delivered from AwaitingSync (spec/40_decoder.md R69-R76, spec/70_reset_and_hazards.md R84, R121): the
bytes up to the payload open it and change decoder registers only; the byte after the last payload byte decides. -/

/-- A delivery goes on where a shorter one ended. -/
theorem exec_ingest_append {xs ys : List Byte} {s u : State} (h : exec (.ingest xs) s = .next u) :
    exec (.ingest (xs ++ ys)) s = .next (ingestBytes ys u) := by
  cases h
  rw [exec_ingest, ingestBytes_append]

/-- SYNC, TYPE, a LENGTH within CAP and no more payload bytes than it says: the frame is open. -/
theorem exec_ingest_opens {s : State} (hinv : s.Inv) (hsync : s.StartsInSync) (t : Byte) {len : Byte} {q : List Byte}
    (hcap : len.toNat ≤ s.cfg.cap.val) (hq : q.length ≤ len.toNat) :
    ∃ d, exec (.ingest ([syncByte, t, len] ++ q)) s = .next { s with dec := d } ∧ d.HasRead t len q := by
  obtain ⟨hcfg, -⟩ := perCallReset_frame s
  obtain ⟨d₀, hheader, hread₀⟩ := ingestBytes_header (perCallReset_inSync hsync) t (len := len)
    (by rw [hcfg]; exact hcap) (by rw [perCallReset_buf, hinv.dec.bufSize]; exact hcap)
  obtain ⟨d, hpayload, hread⟩ := ingestBytes_payload (s := { perCallReset s with dec := d₀ }) hread₀ q
    (by simpa using hq)
  refine ⟨d, ?_, hread⟩
  rw [exec_ingest, ingestBytes_append, hheader, hpayload, perCallReset_eq]

/-- With all payload bytes read and a matching CHECKSUM byte, the frame is accepted (R75). -/
theorem exec_ingest_accepts {s : State} (hinv : s.Inv) (hsync : s.StartsInSync) (t : Byte) {len c : Byte}
    {q : List Byte} (hcap : len.toNat ≤ s.cfg.cap.val) (hq : q.length = len.toNat) (hc : c = sum8 ([t, len] ++ q)) :
    ∃ d, exec (.ingest ([syncByte, t, len] ++ q ++ [c])) s = .next (acceptFrame { s with dec := d }) ∧
      d.command = ⟨t, len, q⟩ := by
  obtain ⟨d, hopens, hread⟩ := exec_ingest_opens hinv hsync t hcap hq.le
  refine ⟨d, ?_, hread.command hq⟩
  rw [exec_ingest_append hopens, hc, ingestBytes_cons, hread.stepByte_checksum (s := { s with dec := d }) hq,
    ingestBytes_nil]

/-- With any other CHECKSUM byte it is rejected (R76). -/
theorem exec_ingest_rejects {s : State} (hinv : s.Inv) (hsync : s.StartsInSync) (t : Byte) {len c : Byte}
    {q : List Byte} (hcap : len.toNat ≤ s.cfg.cap.val) (hq : q.length = len.toNat) (hc : c ≠ sum8 ([t, len] ++ q)) :
    ∃ d, exec (.ingest ([syncByte, t, len] ++ q ++ [c])) s = .next (rejectFrame { s with dec := d }) ∧
      d.HasRead t len q := by
  obtain ⟨d, hopens, hread⟩ := exec_ingest_opens hinv hsync t hcap hq.le
  refine ⟨d, ?_, hread⟩
  have hstate : d.state = .readingChecksum := hread.state.trans (if_pos hq)
  rw [exec_ingest_append hopens, ingestBytes_cons,
    stepByte_reject (s := { s with dec := d }) hstate (hread.sum ▸ hc), ingestBytes_nil]

/-- Settles O33: the CHECKSUM byte sent for `p` matches the sum of `q` too. -/
theorem checksumBlindToCancellingChanges : Obligations.ChecksumBlindToCancellingChanges := by
  refine ⟨fun s t p q hinv hsync hp hlen hsum => ?_, fun p q hperm => ⟨hperm.length_eq, sum8_perm hperm⟩⟩
  have hq := hlen.trans (toNat_lengthByte hp).symm
  obtain ⟨d, hexec, hcommand⟩ := exec_ingest_accepts hinv hsync t
    ((toNat_lengthByte hp).trans_le hp) hq (c := sum8 ([t, BitVec.ofNat 8 p.length] ++ p))
    (by rw [sum8_append, ← hsum, ← sum8_append])
  refine ⟨_, hexec, ?_⟩
  rw [acceptFrame_slot, hcommand]
  exact Slot.ready_latch _ _ hq

/-- Writing another byte at one place changes the sum. -/
theorem sum8_set_ne {xs : List Byte} {i : Nat} {b : Byte} (hi : i < xs.length) (hb : xs[i]? ≠ some b) :
    sum8 (xs.set i b) ≠ sum8 xs := by
  rw [List.getElem?_eq_getElem hi] at hb
  have hne : b ≠ xs[i] := fun e => hb (congrArg some e.symm)
  rw [List.set_eq_take_append_cons_drop, if_pos hi]
  conv_rhs => rw [← List.take_append_drop i xs, List.drop_eq_getElem_cons hi]
  exact sum8_ne_of_set hne

/-- Of a frame with one byte other than SYNC and LENGTH changed: it still has TYPE, the same LENGTH, as many payload
bytes, and CHECKSUM, and the last is not the sum of the others. -/
theorem frame_set {t len b : Byte} {p : List Byte} {j : Nat} (hj : j < p.length + 4) (hsync : j ≠ 0) (hlen : j ≠ 2)
    (hb : ([syncByte, t, len] ++ p ++ [sum8 ([t, len] ++ p)])[j]? ≠ some b) :
    ∃ t' q c, ([syncByte, t, len] ++ p ++ [sum8 ([t, len] ++ p)]).set j b = [syncByte, t', len] ++ q ++ [c] ∧
      q.length = p.length ∧ c ≠ sum8 ([t', len] ++ q) := by
  match j, hsync, hlen with
  | 1, _, _ =>
    have hne : sum8 ([b, len] ++ p) ≠ sum8 ([t, len] ++ p) :=
      sum8_set_ne (xs := [t, len] ++ p) (i := 0) (Nat.succ_pos _) hb
    exact ⟨b, p, _, rfl, rfl, hne.symm⟩
  | k + 3, _, _ =>
    by_cases hk : k < p.length
    case pos =>
      have hold : (p ++ [sum8 ([t, len] ++ p)])[k]? = p[k]? := List.getElem?_append_left hk
      have hset : (p ++ [sum8 ([t, len] ++ p)]).set k b = p.set k b ++ [_] := List.set_append_left k b hk
      have hne : sum8 ([t, len] ++ p.set k b) ≠ sum8 ([t, len] ++ p) :=
        sum8_set_ne (xs := [t, len] ++ p) (i := k + 2) (Nat.add_lt_add_right hk 2) fun e => hb (hold.trans e)
      exact ⟨t, p.set k b, _, congrArg ([syncByte, t, len] ++ ·) hset, List.length_set, hne.symm⟩
    case neg =>
      obtain rfl : k = p.length := by omega
      have hold : (p ++ [sum8 ([t, len] ++ p)])[p.length]? = some _ := List.getElem?_concat_length
      have hset : (p ++ [sum8 ([t, len] ++ p)]).set p.length b = p ++ [b] := by simp
      exact ⟨t, p, b, congrArg ([syncByte, t, len] ++ ·) hset, rfl, fun e => hb (e ▸ hold)⟩

/-- Settles O32: the changed frame is rejected at its last byte. -/
theorem oneChangedByteIsDetected : Obligations.OneChangedByteIsDetected := by
  intro s t p j b hinv hsync hp hj hj0 hj2 hb
  obtain ⟨t', q, c, hset, hlen, hc⟩ :=
    frame_set (length_rxFrame t p ▸ hj) hj0 hj2 hb
  obtain ⟨d, hexec, -⟩ := exec_ingest_rejects hinv hsync t' ((toNat_lengthByte hp).trans_le hp)
    (hlen.trans (toNat_lengthByte hp).symm) hc
  rw [rxFrame, hset]
  exact ⟨_, hexec, rfl, rfl, rfl, rfl, rfl⟩

/-- Settles O36: the second SYNC byte is the TYPE, 02 the LENGTH, and the checksum is due. -/
theorem straySyncSwallowsFrame : Obligations.StraySyncSwallowsFrame := by
  intro s hinv hsync hcap
  obtain ⟨d, hexec, hread⟩ := exec_ingest_opens hinv hsync 0xAA (len := 0x02) (q := [0x00, 0x02]) hcap (Nat.le_refl 2)
  exact ⟨_, hexec, rfl, rfl, hread.state, hread.type, hread.lenByte, BitVec.eq_of_toNat_eq hread.cnt, hread.sum⟩

/-- Settles O37: index 3 is read as the LENGTH, 0x3F as the CHECKSUM, and 0x05 finds no frame open. -/
theorem exampleConfigResponseIsRejectedByDecoder : Obligations.ExampleConfigResponseIsRejectedByDecoder := by
  intro s hinv hsync hcap
  obtain ⟨d, hexec, hread⟩ := exec_ingest_rejects hinv hsync 0x03 (len := 0x03) (q := [0x00, 0x00, 0xC0]) (c := 0x3F)
    hcap rfl (by decide)
  have hstray := (stepInAwaitingSync 0x05 (rejectFrame { s with dec := d }) rfl).2 (by decide)
  refine ⟨_, (exec_ingest_append (ys := [0x05]) hexec).trans (congrArg _ hstray), rfl, ?_, rfl, hread.type,
    hread.lenByte, hread.stored, hread.sum⟩
  exact List.append_assoc ..

/-- Settles O28: the INGEST leaves the Command ready and the POLL behind it takes it. -/
theorem deliveredFrameIsPolled : Obligations.DeliveredFrameIsPolled := by
  intro s t p a b rest hinv hsync hp hmax hr
  obtain ⟨d, hingest, hcommand⟩ := exec_ingest_rxFrame (s := { s with requests := encode b .poll :: rest }) hsync t hp
    (hinv.dec.bufSize ▸ hp)
  have hdecode : decode s.cfg (encode a (ingestFrame t p)) = .ok (ingestFrame t p) :=
    decode_encode_ingest (by rw [length_rxFrame]; exact hmax) a
  have hslot : (s.slot.latch d.command).command = ⟨t, BitVec.ofNat 8 p.length, p⟩ := by
    rw [hcommand]
    exact Slot.command_latch _ _ (toNat_lengthByte hp).symm
  obtain ⟨htakes, -⟩ := pollTakesReadyCommand
  have hpoll := htakes (acceptFrame { s with dec := d, requests := rest }) rfl
  refine ⟨_, (safeRun_succ 1 _ _).2 ⟨_, (step_of_decode hr hdecode).trans hingest,
    (safeRun_succ 0 _ _).2 ⟨_, (step_of_decode rfl (decode_poll _ b)).trans hpoll, (safeRun_zero _ _).2 rfl⟩⟩,
    ?_, rfl, rfl, rfl⟩
  exact congrArg (fun c : Command => s.results ++ [[0x01, c.type, c.length] ++ c.payload]) hslot

end Sys2Proof.Machine
end

section
namespace Sys2Proof.Machine

/-! Several frames in one INGEST (spec/40_decoder.md R77). -/

/-- The Command a frame of R50 with TYPE `f.1` and payload `f.2` delivers. -/
def frameCommand (f : Byte × List Byte) : Command := ⟨f.1, BitVec.ofNat 8 f.2.length, f.2⟩

/-- Frames back to back are each accepted; after each the decoder awaits the SYNC of the next. -/
theorem ingestBytes_frames {s : State} (hinv : s.Inv) (hs : s.dec.state = .awaitingSync)
    (frames : List (Byte × List Byte)) (hcap : ∀ f ∈ frames, f.2.length ≤ s.cfg.cap.val) :
    (ingestBytes (frames.flatMap fun f => rxFrame f.1 f.2) s).dec.state = .awaitingSync ∧
      (ingestBytes (frames.flatMap fun f => rxFrame f.1 f.2) s).events =
        s.events ++ frames.map fun f => .accepted (frameCommand f) := by
  induction frames generalizing s with
  | nil => exact ⟨hs, (List.append_nil _).symm⟩
  | cons f fs ih =>
    obtain ⟨hf, hfs⟩ := List.forall_mem_cons.1 hcap
    obtain ⟨d, hframe, hcommand⟩ := ingestBytes_rxFrame hs f.1 hf (hinv.dec.bufSize ▸ hf)
    have hinv' := ingestBytes_inv (rxFrame f.1 f.2) s hinv
    rw [hframe] at hinv'
    obtain ⟨hstate, hevents⟩ := ih hinv' rfl hfs
    rw [List.flatMap_cons, ingestBytes_append, hframe]
    refine ⟨hstate, hevents.trans ?_⟩
    rw [acceptFrame_events, hcommand, List.append_assoc]
    rfl

theorem acceptedIn_map_accepted {α : Type} (f : α → Command) (xs : List α) :
    acceptedIn (xs.map fun x => .accepted (f x)) = xs.map f := by
  simp [acceptedIn, List.filterMap_map]

/-- Settles O30: the last of the accepted frames is the one the slot has ready (R77). -/
theorem framesBackToBackAllAccepted : Obligations.FramesBackToBackAllAccepted := by
  intro s frames hinv hsync hcap
  obtain ⟨hcfg, -, -, -, -, hkept, -⟩ := perCallReset_frame s
  obtain ⟨hstate, hevents⟩ := ingestBytes_frames hinv.perCallReset (perCallReset_inSync hsync) frames
    (by rw [hcfg]; exact hcap)
  rw [hkept] at hevents
  refine ⟨_, exec_ingest _ s, hstate, hevents, fun fs t p hlast => ?_⟩
  obtain ⟨u, ev, hexec, hev, hready, -⟩ :=
    lastAcceptedFrameSurvives s (frames.flatMap fun f => rxFrame f.1 f.2) hinv
  cases hexec
  have hsame := List.append_cancel_left (hev.symm.trans hevents)
  refine hready (fs.map frameCommand) _ ?_
  rw [hsame, acceptedIn_map_accepted, hlast, List.map_append]
  rfl

end Sys2Proof.Machine
end

section
namespace Sys2Proof.Machine

/-! The slot in an INGEST (spec/40_decoder.md R75, R77, spec/20_memory.md R36): it latches the accepted Commands one
after the other, and is otherwise left alone. -/

/-- The slot after latching Commands in order. -/
def Slot.latchAll (sl : Slot) (cs : List Command) : Slot := cs.foldl (fun sl c => sl.latch c) sl

/-- Since `s` the history has grown by some events; the slot has latched the Commands accepted in them, none with more
payload bytes than its length says. -/
def SlotLatchesAccepted (s u : State) : Prop :=
  ∃ ev, u.events = s.events ++ ev ∧ u.slot = s.slot.latchAll (acceptedIn ev) ∧
    ∀ c ∈ acceptedIn ev, c.payload.length ≤ c.length.toNat

theorem slotLatchesAccepted_refl (s : State) : SlotLatchesAccepted s s :=
  ⟨[], (List.append_nil _).symm, rfl, nofun⟩

theorem SlotLatchesAccepted.trans {s u v : State} (h₁ : SlotLatchesAccepted s u) (h₂ : SlotLatchesAccepted u v) :
    SlotLatchesAccepted s v := by
  obtain ⟨ev₁, hev₁, hslot₁, hlen₁⟩ := h₁
  obtain ⟨ev₂, hev₂, hslot₂, hlen₂⟩ := h₂
  refine ⟨ev₁ ++ ev₂, by rw [hev₂, hev₁, List.append_assoc], ?_, fun c hc => ?_⟩
  · rw [hslot₂, hslot₁, acceptedIn_append, Slot.latchAll, Slot.latchAll, Slot.latchAll, List.foldl_append]
  · rw [acceptedIn_append, List.mem_append] at hc
    exact hc.elim (hlen₁ c) (hlen₂ c)

theorem stepByte_slotLatchesAccepted (b : Byte) (s : State) : SlotLatchesAccepted s (stepByte b s) := by
  obtain ⟨hevents, hslot, -⟩ | ⟨ev, hevents, -, hempty, -, hslot⟩ := stepByte_event b s
  · refine ⟨_, hevents, hslot, fun c hc => ?_⟩
    rw [List.mem_singleton.1 (show c ∈ [s.dec.command] from hc)]
    exact List.length_take_le ..
  · exact ⟨ev, hevents, by rw [hslot, hempty]; rfl, by simp [hempty]⟩

/-- From `s`, an INGEST latches what it accepts. -/
theorem ingest_slotLatchesAccepted (data : List Byte) (s : State) :
    SlotLatchesAccepted s (ingestBytes data (perCallReset s)) := by
  obtain ⟨-, hslot, -, -, -, hevents, -⟩ := perCallReset_frame s
  refine ingestBytes_induction (P := SlotLatchesAccepted s)
    (fun b u h => h.trans (stepByte_slotLatchesAccepted b u)) data _ ?_
  exact ⟨[], by rw [hevents, List.append_nil], hslot, nofun⟩

/-- Settles O39: with nothing accepted, nothing is latched. -/
theorem ingest_frame : Obligations.IngestFrame := by
  intro s u data hexec
  cases hexec
  obtain ⟨hcfg, -, htxlog, hresults, hrequests, -⟩ := perCallReset_frame s
  obtain ⟨ev, hevents, hslot, -⟩ := ingest_slotLatchesAccepted data s
  exact ⟨by rw [ingestBytes_txlog, htxlog], by rw [ingestBytes_results, hresults], by rw [ingestBytes_cfg, hcfg],
    by rw [ingestBytes_requests, hrequests], ev, hevents, fun hnone => by rw [hslot, hnone]; rfl⟩

/-- Latching a Command writes no payload byte at or above the Command's (R36). -/
theorem Slot.latch_payload_getElem? {c : Command} {k : Nat} (hk : c.payload.length ≤ k) (sl : Slot) :
    (sl.latch c).payload[k]? = sl.payload[k]? := by
  rw [Slot.latch_payload, List.getElem?_append_right hk, List.getElem?_drop, Nat.add_sub_cancel' hk]

theorem Slot.latchAll_payload_getElem? {cs : List Command} {k : Nat} (hk : ∀ c ∈ cs, c.payload.length ≤ k)
    (sl : Slot) : (sl.latchAll cs).payload[k]? = sl.payload[k]? := by
  induction cs generalizing sl with
  | nil => rfl
  | cons c cs ih =>
    obtain ⟨hc, hcs⟩ := List.forall_mem_cons.1 hk
    exact (ih hcs (sl.latch c)).trans (sl.latch_payload_getElem? hc)

/-- Settles O40: no latched Command reaches index `k`; the sizes are the invariant's. -/
theorem payloadTailIsKept : Obligations.PayloadTailIsKept := by
  intro s u data ev k hinv hexec hev hk
  have hu := exec_keeps_inv hinv hexec
  have hcfg := exec_keeps_cfg hexec
  cases hexec
  obtain ⟨ev', hev', hslot, hlen⟩ := ingest_slotLatchesAccepted data s
  obtain rfl : ev = ev' := List.append_cancel_left (hev.symm.trans hev')
  refine ⟨?_, hcfg ▸ hu.slot.payloadSize, hcfg ▸ hu.dec.bufSize⟩
  rw [hslot]
  exact Slot.latchAll_payload_getElem? (fun c hc => (hlen c hc).trans (hk c hc)) _

/-- Latching never clears SLOT_UNREAD. -/
theorem Slot.latchAll_unread {sl : Slot} (h : sl.unread = true) (cs : List Command) :
    (sl.latchAll cs).unread = true := by
  induction cs generalizing sl with
  | nil => exact h
  | cons c cs ih => exact ih (sl.latch_unread c)

/-- INGEST never clears SLOT_UNREAD (R23). -/
theorem exec_ingest_unread {data : List Byte} {s t : State} (hexec : exec (.ingest data) s = .next t)
    (h : s.slot.unread = true) : t.slot.unread = true := by
  cases hexec
  obtain ⟨_, -, hslot, -⟩ := ingest_slotLatchesAccepted data s
  rw [hslot]
  exact Slot.latchAll_unread h _

theorem eq_poll_of_clears_unread {i : Instr} {s t : State} (hexec : exec i s = .next t)
    (hset : s.slot.unread = true) (hclear : t.slot.unread = false) : i = .poll := by
  cases i with
  | poll => rfl
  | ingest data => cases (exec_ingest_unread hexec hset).symm.trans hclear
  | encConfigResponse index v => cases hexec; cases hset.symm.trans hclear
  | encCurrentSet v => cases hexec; cases hset.symm.trans hclear
  | resetDecoder => cases hexec; cases hset.symm.trans hclear

theorem eq_ingest_of_sets_unread {i : Instr} {s t : State} (hexec : exec i s = .next t)
    (hclear : s.slot.unread = false) (hset : t.slot.unread = true) : ∃ data, i = .ingest data := by
  cases i with
  | ingest data => exact ⟨data, rfl⟩
  | poll =>
    obtain ⟨u, hpoll, -, hunread⟩ := exec_poll_reports_ready s
    cases hpoll.symm.trans hexec
    cases hunread.symm.trans hset
  | encConfigResponse index v => cases hexec; cases hclear.symm.trans hset
  | encCurrentSet v => cases hexec; cases hclear.symm.trans hset
  | resetDecoder => cases hexec; cases hclear.symm.trans hset

/-- Settles O56: POLL reports what is ready, here the Command; an INGEST that accepts nothing keeps the slot. -/
theorem unreadFlagDiscipline : Obligations.UnreadFlagDiscipline := by
  intro i s t hexec
  refine ⟨fun hset hclear => ?_, fun hclear hset => ?_⟩
  · obtain rfl := eq_poll_of_clears_unread hexec hset hclear
    obtain ⟨u, hpoll, hresults, -⟩ := exec_poll_reports_ready s
    cases hpoll.symm.trans hexec
    exact ⟨rfl, by rw [hresults, Slot.ready_of_unread hset]⟩
  · obtain ⟨data, rfl⟩ := eq_ingest_of_sets_unread hexec hclear hset
    obtain ⟨-, -, -, -, ev, hevents, hkeeps⟩ := ingest_frame s t data hexec
    refine ⟨⟨data, rfl⟩, ev, hevents, fun hnone => ?_⟩
    rw [hkeeps hnone, hclear] at hset
    cases hset

/-- Settles O55: POLL clears the flag, Transmit appends to TXLOG, RESET_DECODER writes DEC_STATE, and INGEST keeps
what its frame says. -/
theorem agentsOwnTheirRegisters : Obligations.AgentsOwnTheirRegisters := by
  intro s t r rest i hr hd hstep
  have hexec := (step_of_decode hr hd).symm.trans hstep
  cases i with
  | ingest data =>
    obtain ⟨htxlog, hresults, -⟩ := ingest_frame _ t data hexec
    exact ⟨nofun, fun _ => ⟨htxlog, hresults, exec_ingest_unread (s := { s with requests := rest }) hexec⟩⟩
  | poll =>
    refine ⟨fun _ => ?_, nofun⟩
    obtain ⟨_, e⟩ | ⟨_, e⟩ := exec_poll_cases { s with requests := rest } <;> cases e.symm.trans hexec
    · exact ⟨rfl, rfl, rfl, rfl, nofun⟩
    · exact ⟨rfl, rfl, rfl, rfl, id⟩
  | encConfigResponse index v => cases hexec; exact ⟨fun _ => ⟨rfl, rfl, rfl, rfl, id⟩, nofun⟩
  | encCurrentSet v => cases hexec; exact ⟨fun _ => ⟨rfl, rfl, rfl, rfl, id⟩, nofun⟩
  | resetDecoder => cases hexec; exact ⟨nofun, fun _ => ⟨rfl, rfl, id⟩⟩

/-- Settles O24: the invariant's sum, as a number. -/
theorem runningSumCoversFrame : Obligations.RunningSumCoversFrame := by
  intro data s t hinv hexec hs
  have hsum := (exec_keeps_inv hinv hexec).dec.checkSum hs
  rw [hsum, sum8, BitVec.toNat_ofNat]
  simp [Nat.add_assoc]

end Sys2Proof.Machine
end

section
namespace Sys2Proof.Machine

/-! What was accepted was delivered (spec/30_encoding.md R50, R51, spec/40_decoder.md R67-R75): the decoder's registers
hold the bytes of the open frame as they were read. -/

/-- The bytes of the open frame, SYNC included, as the registers hold them. -/
def Decoder.openBytes (d : Decoder) : List Byte :=
  match d.state with
  | .awaitingSync => []
  | .readingType => [syncByte]
  | .readingLength => [syncByte, d.type]
  | .readingPayload => [syncByte, d.type, d.len] ++ d.buf.take d.cnt.toNat
  | .readingChecksum => [syncByte, d.type, d.len] ++ d.buf.take d.len.toNat

theorem Decoder.openBytes_awaitingSync {d : Decoder} (h : d.state = .awaitingSync) : d.openBytes = [] := by
  rw [openBytes, h]

theorem Decoder.openBytes_readingType {d : Decoder} (h : d.state = .readingType) : d.openBytes = [syncByte] := by
  rw [openBytes, h]

theorem Decoder.openBytes_readingLength {d : Decoder} (h : d.state = .readingLength) :
    d.openBytes = [syncByte, d.type] := by
  rw [openBytes, h]

theorem Decoder.openBytes_readingPayload {d : Decoder} (h : d.state = .readingPayload) :
    d.openBytes = [syncByte, d.type, d.len] ++ d.buf.take d.cnt.toNat := by
  rw [openBytes, h]

theorem Decoder.openBytes_readingChecksum {d : Decoder} (h : d.state = .readingChecksum) :
    d.openBytes = [syncByte, d.type, d.len] ++ d.buf.take d.len.toNat := by
  rw [openBytes, h]

/-- The LENGTH byte is the third, whichever state it opens (R71). -/
theorem Decoder.openBytes_takeLength (b : Byte) (d : Decoder) :
    (takeLength b d).openBytes = [syncByte, d.type, b] := by
  by_cases hb : b = 0
  · rw [openBytes_readingChecksum (if_pos hb), takeLength_len, hb]
    rfl
  · rw [openBytes_readingPayload (if_neg hb)]
    rfl

/-- A payload byte is stored behind the ones read, be it the last or not (R73). -/
theorem Decoder.Ok.openBytes_storePayload {cap : Nat} {d : Decoder} (h : d.Ok cap) (hs : d.state = .readingPayload)
    (b : Byte) : (Machine.storePayload b d).openBytes = d.openBytes ++ [b] := by
  have hroom : d.cnt.toNat < d.buf.length := h.bufSize ▸ (h.payloadCnt hs).trans_le (h.payloadLen hs)
  rw [openBytes_readingPayload hs, List.append_assoc, ← take_succ_set d.buf _ b hroom, ← h.cnt_succ hs]
  by_cases hlast : d.cnt + 1 = d.len
  · rw [openBytes_readingChecksum (if_pos hlast), hlast]
    rfl
  · rw [openBytes_readingPayload (if_neg hlast)]
    rfl

/-- Every byte either ends up behind the open frame's bytes, or leaves no frame open. -/
theorem stepByte_openBytes {s : State} (hinv : s.Inv) (b : Byte) :
    (stepByte b s).dec.openBytes = s.dec.openBytes ++ [b] ∨ (stepByte b s).dec.openBytes = [] := by
  obtain ⟨hs, hb, e⟩ | ⟨hs, _, e⟩ | ⟨hs, e⟩ | ⟨_, _, e⟩ | ⟨hs, _, e⟩ | ⟨hs, e⟩ | ⟨_, _, e⟩ | ⟨_, _, e⟩ :=
    stepByte_cases b s <;> rw [e]
  case inl => exact .inl (by rw [Decoder.openBytes_awaitingSync hs, hb]; rfl)
  case inr.inl => exact .inr (Decoder.openBytes_awaitingSync hs)
  case inr.inr.inl => exact .inl (by rw [Decoder.openBytes_readingType hs]; rfl)
  case inr.inr.inr.inl => exact .inr rfl
  case inr.inr.inr.inr.inl =>
    exact .inl (by rw [Decoder.openBytes_readingLength hs]; exact Decoder.openBytes_takeLength b s.dec)
  case inr.inr.inr.inr.inr.inl => exact .inl (hinv.dec.openBytes_storePayload hs b)
  case inr.inr.inr.inr.inr.inr.inl => exact .inr rfl
  case inr.inr.inr.inr.inr.inr.inr => exact .inr rfl

/-- The bytes of a whole frame of R50 that delivers the Command. -/
def Command.frame (c : Command) : List Byte :=
  [syncByte, c.type, c.length] ++ c.payload ++ [sum8 ([c.type, c.length] ++ c.payload)]

/-- The Command fits the capacity and its whole frame stands in the data. -/
def Command.DeliveredIn (cap : Nat) (data : List Byte) (c : Command) : Prop :=
  c.payload.length = c.length.toNat ∧ c.payload.length ≤ cap ∧ c.frame <:+: data

theorem Command.DeliveredIn.mono {cap : Nat} {xs ys : List Byte} {c : Command} (h : c.DeliveredIn cap xs)
    (hxy : xs <:+: ys) : c.DeliveredIn cap ys := by
  obtain ⟨hlen, hcap, hframe⟩ := h
  exact ⟨hlen, hcap, hframe.trans hxy⟩

/-- What one byte accepts: the open frame, which this byte completes (R74, R75). -/
theorem stepByte_accepts {s : State} (hinv : s.Inv) (b : Byte) :
    ∃ ev, (stepByte b s).events = s.events ++ ev ∧
      ∀ c ∈ acceptedIn ev, c.DeliveredIn s.cfg.cap.val (s.dec.openBytes ++ [b]) := by
  obtain ⟨hevents, -, hs⟩ | ⟨ev, hevents, -, hnone, -⟩ := stepByte_event b s
  · refine ⟨_, hevents, fun c hc => ?_⟩
    obtain rfl : c = s.dec.command := List.mem_singleton.1 hc
    have hlen := hinv.dec.command_payload_length hs
    have hb : b = s.dec.sum := by
      by_contra hne
      rw [stepByte_reject hs hne, rejectFrame_events, List.append_cancel_left_eq] at hevents
      cases hevents
    have hframe : s.dec.command.frame = s.dec.openBytes ++ [b] := by
      rw [Command.frame, Decoder.openBytes_readingChecksum hs, hb, hinv.dec.checkSum hs]
      rfl
    exact ⟨hlen, hlen.trans_le (hinv.dec.checkLen hs), hframe ▸ List.infix_rfl⟩
  · exact ⟨ev, hevents, by simp [hnone]⟩

/-- With `read` read before, the open frame last, every Command accepted in the data stands in all of it. -/
theorem ingestBytes_accepts_delivered {s : State} (hinv : s.Inv) {read : List Byte} (hopen : s.dec.openBytes <:+ read)
    (data : List Byte) :
    ∃ ev, (ingestBytes data s).events = s.events ++ ev ∧
      ∀ c ∈ acceptedIn ev, c.DeliveredIn s.cfg.cap.val (read ++ data) := by
  induction data generalizing s read with
  | nil => exact ⟨[], (List.append_nil _).symm, nofun⟩
  | cons b bs ih =>
    have hread : s.dec.openBytes ++ [b] <:+ read ++ [b] := by
      obtain ⟨before, rfl⟩ := hopen
      exact ⟨before, (List.append_assoc ..).symm⟩
    have hopen' : (stepByte b s).dec.openBytes <:+ read ++ [b] := by
      obtain e | e := stepByte_openBytes hinv b <;> rw [e]
      · exact hread
      · exact List.nil_suffix
    obtain ⟨ev₁, hev₁, hacc₁⟩ := stepByte_accepts hinv b
    obtain ⟨ev₂, hev₂, hacc₂⟩ := ih (stepByte_inv b s hinv) hopen'
    rw [stepByte_cfg, List.append_assoc] at hacc₂
    refine ⟨ev₁ ++ ev₂, by rw [ingestBytes_cons, hev₂, hev₁, List.append_assoc], fun c hc => ?_⟩
    rw [acceptedIn_append, List.mem_append] at hc
    obtain hc | hc := hc
    · refine (hacc₁ c hc).mono (hread.isInfix.trans ?_)
      exact ⟨[], bs, by simp⟩
    · exact hacc₂ c hc

/-- Settles O31: in AwaitingSync no frame is open, so the frames stand in the data alone. -/
theorem acceptedCommandsWereDelivered : Obligations.AcceptedCommandsWereDelivered := by
  intro s u data ev c hinv hsync hexec hev hc
  obtain ⟨hcfg, -, -, -, -, hkept, -⟩ := perCallReset_frame s
  have hnone := Decoder.openBytes_awaitingSync (perCallReset_inSync hsync)
  cases hexec
  obtain ⟨ev', hev', hacc⟩ :=
    ingestBytes_accepts_delivered hinv.perCallReset (read := []) (hnone ▸ List.nil_suffix) data
  rw [hkept, hev] at hev'
  obtain rfl := List.append_cancel_left hev'
  obtain ⟨hlen, hcap, before, after, hdata⟩ := hacc c hc
  exact ⟨hlen, hcfg ▸ hcap, before, after, hdata.symm⟩

/-- A Command accepted costs the four bytes SYNC, TYPE, LENGTH and CHECKSUM, of which the open frame has read
`frameBytesRead` (R126). -/
theorem ingestBytes_accepts_at_most {s : State} (hinv : s.Inv) (data : List Byte) :
    ∃ ev, (ingestBytes data s).events = s.events ++ ev ∧
      4 * (acceptedIn ev).length ≤ s.dec.frameBytesRead + data.length := by
  induction data generalizing s with
  | nil => exact ⟨[], (List.append_nil _).symm, Nat.zero_le _⟩
  | cons b bs ih =>
    obtain ⟨ev, hev, hbound⟩ := ih (stepByte_inv b s hinv)
    obtain ⟨hevents, -, hs⟩ | ⟨ev₁, hev₁, -, hnone, -⟩ := stepByte_event b s
    · refine ⟨[.accepted s.dec.command] ++ ev, by rw [ingestBytes_cons, hev, hevents, List.append_assoc], ?_⟩
      have hbefore := Decoder.frameBytesRead_readingChecksum hs
      have hafter := Decoder.frameBytesRead_awaitingSync (stepByte_checksum_inSync hs b)
      have hone : (acceptedIn [.accepted s.dec.command]).length = 1 := rfl
      rw [acceptedIn_append, List.length_append, hone, List.length_cons]
      omega
    · refine ⟨ev₁ ++ ev, by rw [ingestBytes_cons, hev, hev₁, List.append_assoc], ?_⟩
      have hread := stepByte_frameBytesRead_le hinv b
      rw [acceptedIn_append, hnone, List.nil_append, List.length_cons]
      omega

/-- Settles O38: in AwaitingSync no byte of a frame is read. -/
theorem acceptedFramesAreBounded : Obligations.AcceptedFramesAreBounded := by
  intro s u data ev hinv hsync hexec hev
  obtain ⟨-, -, -, -, -, hkept, -⟩ := perCallReset_frame s
  cases hexec
  obtain ⟨ev', hev', hbound⟩ := ingestBytes_accepts_at_most hinv.perCallReset data
  rw [hkept, hev] at hev'
  obtain rfl := List.append_cancel_left hev'
  rwa [Decoder.frameBytesRead_awaitingSync (perCallReset_inSync hsync), Nat.zero_add] at hbound

end Sys2Proof.Machine
end

section
namespace Sys2Proof.Machine

/-! The history in an INGEST (spec/10_state.md R101, spec/40_decoder.md R83): no byte reads it. -/

/-- The block with earlier events put before its history. -/
def State.withPast (es : List Event) (s : State) : State := { s with events := es ++ s.events }

/-- An event recorded behind the past and the history is recorded behind the history. -/
theorem withEvents_append_assoc (es : List Event) (s : State) (ev : List Event) (e : Event) :
    ({ s with events := es ++ ev ++ [e] } : State) = { s with events := es ++ (ev ++ [e]) } := by
  rw [List.append_assoc]

theorem stepByte_withPast (b : Byte) (es : List Event) (s : State) :
    stepByte b (s.withPast es) = (stepByte b s).withPast es := by
  obtain ⟨hs, hb, e⟩ | ⟨hs, hb, e⟩ | ⟨hs, e⟩ | ⟨hs, hb, e⟩ | ⟨hs, hb, e⟩ | ⟨hs, e⟩ | ⟨hs, hb, e⟩ | ⟨hs, hb, e⟩ :=
    stepByte_cases b s <;> rw [e]
  case inl => exact (stepInAwaitingSync b (s.withPast es) hs).1 hb
  case inr.inl =>
    rw [(stepInAwaitingSync b (s.withPast es) hs).2 hb]
    exact withEvents_append_assoc es (s.record .desync) s.events .desync
  case inr.inr.inl => exact stepByte_type (s := s.withPast es) hs b
  case inr.inr.inr.inl =>
    rw [stepByte_rejectLength (s := s.withPast es) hs hb]
    exact withEvents_append_assoc es (rejectLength b s) s.events .lengthOverflow
  case inr.inr.inr.inr.inl => exact stepByte_takeLength (s := s.withPast es) hs hb
  case inr.inr.inr.inr.inr.inl => exact stepByte_payload (s := s.withPast es) hs b
  case inr.inr.inr.inr.inr.inr.inl =>
    rw [stepByte_accept (s := s.withPast es) hs hb]
    exact withEvents_append_assoc es (acceptFrame s) s.events (.accepted s.dec.command)
  case inr.inr.inr.inr.inr.inr.inr =>
    rw [stepByte_reject (s := s.withPast es) hs hb]
    exact withEvents_append_assoc es (rejectFrame s) s.events .checksumMismatch

theorem ingestBytes_withPast (data : List Byte) (es : List Event) (s : State) :
    ingestBytes data (s.withPast es) = (ingestBytes data s).withPast es := by
  induction data generalizing s with
  | nil => rfl
  | cons b bs ih => rw [ingestBytes_cons, stepByte_withPast, ih, ingestBytes_cons]

/-- Every history is one put before the empty one. -/
theorem withPast_of_no_events (es : List Event) (s : State) :
    { s with events := es } = State.withPast es { s with events := [] } := by
  rw [State.withPast, List.append_nil]

/-- Settles O35: the stray bytes lengthen the history by their DESYNCs, and what follows does not read it. -/
theorem strayBytesBeforeFrameHarmless : Obligations.StrayBytesBeforeFrameHarmless := by
  intro s u v before frame hsync hbefore hu hv
  obtain ⟨-, -, -, -, -, hkept, -⟩ := perCallReset_frame s
  have hstart : perCallReset s = State.withPast s.events { perCallReset s with events := [] } := by
    rw [← withPast_of_no_events, ← hkept]
  have hstray := ingestBytes_desync before (perCallReset s) (perCallReset_inSync hsync) hbefore
  rw [withPast_of_no_events, hkept] at hstray
  cases hu
  cases hv
  rw [ingestBytes_append, hstray, ingestBytes_withPast]
  rw [hstart, ingestBytes_withPast]
  exact ⟨rfl, rfl, rfl, rfl, rfl, rfl, rfl, _, rfl, rfl⟩

end Sys2Proof.Machine
end

section
namespace Sys2Proof.Machine

/-! Runs over known pending requests (spec/20_memory.md R46): one operation after the other. -/

/-- One pending operation that goes on, then the rest of the run. -/
theorem SafeRun.cons {k : Nat} {s t u : State} {r : Request} {rest : List Request} {i : Instr}
    (hr : s.requests = r :: rest) (hd : decode s.cfg r = .ok i) (hexec : exec i { s with requests := rest } = .next t)
    (hrun : SafeRun k t u) : SafeRun (k + 1) s u :=
  (safeRun_succ k s u).2 ⟨t, (step_of_decode hr hd).trans hexec, hrun⟩

/-- Without the per-call reset, pending INGESTs run to what one INGEST of all their bytes gives (R79). -/
theorem safeRun_ingests {s : State} (hkeeps : s.cfg.resetOnDelivery = false) {chunks : List (List Byte)}
    (hmax : ∀ d ∈ chunks, d.length ≤ s.cfg.maxDelivery.val) (rest : List Request) :
    SafeRun chunks.length (s.withRequests (chunks.map (fun d => encode .receive (.ingest d)) ++ rest))
      (ingestBytes chunks.flatten (s.withRequests rest)) := by
  induction chunks generalizing s with
  | nil => exact (safeRun_zero _ _).2 rfl
  | cons d ds ih =>
    obtain ⟨hd, hds⟩ := List.forall_mem_cons.1 hmax
    have hrun := ih (s := ingestBytes d s) (by rwa [ingestBytes_cfg]) (by rwa [ingestBytes_cfg])
    rw [← ingestBytes_withRequests, ← ingestBytes_withRequests, ← ingestBytes_append] at hrun
    exact SafeRun.cons rfl (decode_encode_ingest hd .receive) 
      (exec_ingest_of_keeps (s := s.withRequests (ds.map (fun d => encode .receive (.ingest d)) ++ rest)) hkeeps d) hrun

/-- Settles O26. -/
theorem chunkingInvisibleWithoutReset : Obligations.ChunkingInvisibleWithoutReset := by
  intro s chunks rest hkeeps hmax
  rw [exec_ingest_of_keeps (s := { s with requests := rest }) hkeeps]
  exact safeRun_ingests hkeeps hmax rest

/-- POLLs with nothing ready each report none (R86). -/
theorem safeRun_polls_none {k : Nat} {s : State} {rest : List Request} {a : Agent}
    (hr : s.requests = List.replicate k (encode a .poll) ++ rest) (hnone : s.slot.unread = false) :
    SafeRun k s { s with requests := rest, results := s.results ++ List.replicate k [0x00] } := by
  induction k generalizing s with
  | zero =>
    obtain rfl : s.requests = rest := hr
    exact (safeRun_zero _ _).2 (by simp)
  | succ k ih =>
    obtain ⟨-, hreports, -⟩ := pollTakesReadyCommand
    have hpoll := hreports { s with requests := List.replicate k (encode a .poll) ++ rest } hnone
    have hrun := ih (s := { s with
      requests := List.replicate k (encode a .poll) ++ rest, results := s.results ++ [[0x00]] }) rfl hnone
    rw [List.append_assoc] at hrun
    exact SafeRun.cons hr (decode_poll _ a) hpoll hrun

/-- Settles O42: the POLL that takes the Command leaves nothing ready for the others. -/
theorem repeatedPollIsIdempotent : Obligations.RepeatedPollIsIdempotent := by
  intro k s rest a hr
  refine ⟨safeRun_polls_none hr, fun hready j hk => ?_⟩
  subst hk
  obtain ⟨htakes, -⟩ := pollTakesReadyCommand
  have hpoll := htakes { s with requests := List.replicate j (encode a .poll) ++ rest } hready
  exact ⟨_, SafeRun.cons hr (decode_poll _ a) hpoll (safeRun_polls_none rfl rfl), rfl, rfl, rfl, rfl⟩

/-- No operation writes the pending requests. -/
theorem exec_keeps_requests {i : Instr} {s t : State} (h : exec i s = .next t) : t.requests = s.requests := by
  cases i with
  | ingest data =>
    obtain ⟨-, -, -, hrequests, -⟩ := ingest_frame s t data h
    exact hrequests
  | poll => obtain ⟨_, e⟩ | ⟨_, e⟩ := exec_poll_cases s <;> cases e.symm.trans h <;> rfl
  | encConfigResponse index v => cases h; rfl
  | encCurrentSet v => cases h; rfl
  | resetDecoder => cases h; rfl

/-- Settles O54, by induction over the pending requests: each decodes, and its operation completes. -/
theorem admittedRunsNeverStop : Obligations.AdmittedRunsNeverStop := by
  intro s hadm
  induction hrs : s.requests generalizing s with
  | nil => exact ⟨s, (safeRun_zero s s).2 rfl, hrs⟩
  | cons r rest ih =>
    rw [State.Admissible, hrs] at hadm
    obtain ⟨⟨i, hd⟩, hrest⟩ := List.forall_mem_cons.1 hadm
    obtain ⟨t, hexec⟩ := exec_completes i { s with requests := rest }
    have hrequests : t.requests = rest := exec_keeps_requests hexec
    have hcfg : t.cfg = s.cfg := exec_keeps_cfg (s := { s with requests := rest }) hexec
    obtain ⟨u, hrun, hdone⟩ := ih t (by rwa [State.Admissible, hrequests, hcfg]) hrequests
    exact ⟨u, SafeRun.cons hrs hd hexec hrun, hdone⟩

/-- An operation appends to TXLOG the frame it sends, if it sends one. -/
theorem exec_txlog {i : Instr} {s t : State} (h : exec i s = .next t) :
    t.txlog = s.txlog ++ (sentFrame s.cfg i).toList := by
  cases hf : sentFrame s.cfg i with
  | none => simpa using exec_keeps_txlog hf h
  | some f =>
    cases (exec_of_sentFrame hf).symm.trans h
    rfl

/-- Settles O52, by induction over the pending operations. -/
theorem txlogKeepsIssueOrder : Obligations.TxlogKeepsIssueOrder := by
  intro ops s u a hwf hr hrun
  induction ops generalizing s with
  | nil =>
    cases (safeRun_zero s u).1 hrun
    exact (List.append_nil _).symm
  | cons i ops ih =>
    obtain ⟨hi, hops⟩ := List.forall_mem_cons.1 hwf
    obtain ⟨t, hstep, hrest⟩ := (safeRun_succ _ s u).1 hrun
    have hexec := (step_of_decode hr (decodeOfEncode _ a i hi)).symm.trans hstep
    have hcfg : t.cfg = s.cfg := exec_keeps_cfg (s := { s with requests := ops.map (encode a) }) hexec
    have htxlog : t.txlog = s.txlog ++ (sentFrame s.cfg i).toList :=
      exec_txlog (s := { s with requests := ops.map (encode a) }) hexec
    rw [ih t (by rwa [hcfg]) (exec_keeps_requests hexec) hrest, htxlog, hcfg, List.append_assoc]
    cases hf : sentFrame s.cfg i <;> simp [hf]

end Sys2Proof.Machine
end

section
namespace Sys2Proof.Machine

/-! Two blocks that run alike (spec/10_state.md R31, R32, R34): a relation that every pair of operations keeps, every
pair of runs keeps. -/

/-- Whatever the first run does in one step, the second does too, and the relation is kept. -/
theorem SafeRun.simulation {R : State → State → Prop}
    (hstep : ∀ s t s', R s t → step s = .next s' → ∃ t', step t = .next t' ∧ R s' t') {k : Nat} {s t s' : State}
    (h : R s t) (hrun : SafeRun k s s') : ∃ t', SafeRun k t t' ∧ R s' t' := by
  induction k generalizing s t with
  | zero =>
    cases (safeRun_zero s s').1 hrun
    exact ⟨t, (safeRun_zero t t).2 rfl, h⟩
  | succ k ih =>
    obtain ⟨u, hu, hrest⟩ := (safeRun_succ k s s').1 hrun
    obtain ⟨v, hv, huv⟩ := hstep s t u h hu
    obtain ⟨t', ht', hst'⟩ := ih huv hrest
    exact ⟨t', (safeRun_succ k t t').2 ⟨v, hv, ht'⟩, hst'⟩

/-- A relation between blocks with the same configuration and the same pending requests, kept by every operation, is
kept by every step: both take the same request and decode it alike. -/
theorem step_simulation {R : State → State → Prop} (hcfg : ∀ s t, R s t → s.cfg = t.cfg)
    (hrequests : ∀ s t, R s t → s.requests = t.requests)
    (hrest : ∀ s t rest, R s t → R { s with requests := rest } { t with requests := rest })
    (hexec : ∀ i s t s', R s t → exec i s = .next s' → ∃ t', exec i t = .next t' ∧ R s' t') {s t s' : State}
    (h : R s t) (hstep : step s = .next s') : ∃ t', step t = .next t' ∧ R s' t' := by
  obtain ⟨hr, e⟩ | ⟨_, _, _, _, _, e⟩ | ⟨r, rest, i, hr, hd, e⟩ := step_cases s
  · cases e.symm.trans hstep
    exact ⟨t, stepWithoutRequestWaits t ((hrequests s t h).symm.trans hr), h⟩
  · cases e.symm.trans hstep
  · rw [step_of_decode ((hrequests s t h).symm.trans hr) (hcfg s t h ▸ hd)]
    exact hexec i _ _ s' (hrest s t rest h) (e.symm.trans hstep)

end Sys2Proof.Machine
end

section
namespace Sys2Proof.Machine

/-! Decoders that agree on the registers a rule reads before it writes them (spec/10_state.md R31, R32). -/

/-- In AwaitingSync no register is live (R31). -/
theorem Decoder.liveEq_of_awaitingSync {d e : Decoder} (hd : d.state = .awaitingSync) (he : e.state = .awaitingSync) :
    d.LiveEq e where
  state := hd.trans he.symm
  sum h := absurd hd h
  type h := absurd hd h
  len h := by simp [hd] at h
  cnt h := by simp [hd] at h
  payload h := by simp [hd] at h
  whole h := by simp [hd] at h

/-- Decoders in ReadingChecksum that agree on the live registers hold the same Command. -/
theorem Decoder.LiveEq.command {d e : Decoder} (h : d.LiveEq e) (hs : d.state = .readingChecksum) :
    d.command = e.command := by
  rw [Decoder.command, Decoder.command, h.whole hs, h.type (by simp [hs]) (by simp [hs]), h.len (.inr hs)]

theorem Decoder.LiveEq.takeLength {d e : Decoder} (h : d.LiveEq e) (hs : d.state = .readingLength) (b : Byte) :
    (takeLength b d).LiveEq (takeLength b e) where
  state := rfl
  sum _ := congrArg (addSum · b) (h.sum (by simp [hs]))
  type _ _ := h.type (by simp [hs]) (by simp [hs])
  len _ := rfl
  cnt _ := rfl
  payload _ := rfl
  whole hw := by
    have hb : b = 0 := by
      by_contra hne
      rw [takeLength_state, if_neg hne] at hw
      cases hw
    rw [takeLength_len, takeLength_len, hb]
    rfl

theorem Decoder.LiveEq.storePayload {cap : Nat} {d e : Decoder} (h : d.LiveEq e) (hd : d.Ok cap) (he : e.Ok cap)
    (hs : d.state = .readingPayload) (b : Byte) : (storePayload b d).LiveEq (storePayload b e) := by
  have hcnt := h.cnt hs
  have hlen := h.len (.inl hs)
  have hs' : e.state = .readingPayload := h.state.symm.trans hs
  have hstored : (d.buf.set d.cnt.toNat b).take (d.cnt + 1).toNat =
      (e.buf.set e.cnt.toNat b).take (e.cnt + 1).toNat := by
    have hroomd : d.cnt.toNat < d.buf.length := hd.bufSize ▸ (hd.payloadCnt hs).trans_le (hd.payloadLen hs)
    have hroome : e.cnt.toNat < e.buf.length := he.bufSize ▸ (he.payloadCnt hs').trans_le (he.payloadLen hs')
    rw [hd.cnt_succ hs, he.cnt_succ hs', take_succ_set _ _ _ hroomd, take_succ_set _ _ _ hroome, h.payload hs]
  exact
    { state := by rw [storePayload_state, storePayload_state, hcnt, hlen]
      sum := fun _ => congrArg (addSum · b) (h.sum (by simp [hs]))
      type := fun _ _ => h.type (by simp [hs]) (by simp [hs])
      len := fun _ => hlen
      cnt := fun _ => congrArg (· + 1) hcnt
      payload := fun _ => hstored
      whole := fun hw => by
        have hfull : d.cnt + 1 = d.len := by
          by_contra hne
          rw [storePayload_state, if_neg hne] at hw
          cases hw
        have hfull' : e.cnt + 1 = e.len := by rw [← hcnt, ← hlen, hfull]
        rw [hfull, hfull'] at hstored
        exact hstored }

/-- The per-call reset leaves no register live where it acts, and changes nothing where it does not. -/
theorem Decoder.LiveEq.perCallReset {s t : State} (hcfg : s.cfg = t.cfg) (h : s.dec.LiveEq t.dec) :
    (perCallReset s).dec.LiveEq (perCallReset t).dec := by
  obtain ⟨hr, e⟩ | ⟨hr, e⟩ := perCallReset_cases s <;> rw [e, Machine.perCallReset, ← hcfg, hr]
  · exact Decoder.liveEq_of_awaitingSync rfl rfl
  · exact h

end Sys2Proof.Machine
end

section
namespace Sys2Proof.Machine

/-! Blocks that agree outside the decoder (spec/10_state.md R31, R34), their slots up to a relation `Q`: what they
accept, report and send is the same, as long as they decode alike. -/

/-- Two blocks that agree outside the decoder's registers and the free-value counter, their slots by `Q`. -/
structure AgreeOutside (Q : Slot → Slot → Prop) (s t : State) : Prop where
  cfg : s.cfg = t.cfg
  slot : Q s.slot t.slot
  txlog : s.txlog = t.txlog
  results : s.results = t.results
  requests : s.requests = t.requests
  events : s.events = t.events

/-- Slots related by `Q` have the same Command ready, and stay related when both latch a Command with as many payload
bytes as its length says, and when both are taken. -/
structure SlotSimulation (Q : Slot → Slot → Prop) : Prop where
  ready : ∀ {x y : Slot}, Q x y → x.ready = y.ready
  latch : ∀ {x y : Slot} (c : Command), c.payload.length = c.length.toNat → Q x y → Q (x.latch c) (y.latch c)
  taken : ∀ {x y : Slot}, Q x y → Q x.markTaken y.markTaken

theorem slotSimulation_eq : SlotSimulation Eq where
  ready h := congrArg Slot.ready h
  latch c _ h := congrArg (Slot.latch c) h
  taken h := congrArg Slot.markTaken h

/-- Of the slot, the Command ready is all that shows (R34). -/
theorem slotSimulation_ready : SlotSimulation fun x y => x.ready = y.ready where
  ready := id
  latch c hc _ := (Slot.ready_latch c _ hc).trans (Slot.ready_latch c _ hc).symm
  taken _ := rfl

section
variable {Q : Slot → Slot → Prop} (hQ : SlotSimulation Q)
include hQ

/-- Every byte is read alike: both decoders make the same transition, and both slots latch the same Command, if any. -/
theorem AgreeOutside.stepByte {s t : State} (hs : s.Inv) (ht : t.Inv) (h : AgreeOutside Q s t)
    (hdec : s.dec.LiveEq t.dec) (b : Byte) :
    AgreeOutside Q (stepByte b s) (stepByte b t) ∧ (stepByte b s).dec.LiveEq (stepByte b t).dec := by
  obtain ⟨hd, hb, e⟩ | ⟨hd, hb, e⟩ | ⟨hd, e⟩ | ⟨hd, hb, e⟩ | ⟨hd, hb, e⟩ | ⟨hd, e⟩ | ⟨hd, hb, e⟩ | ⟨hd, hb, e⟩ :=
    stepByte_cases b s <;> have hd' := hdec.state.symm.trans hd <;> rw [e]
  case inl =>
    rw [(stepInAwaitingSync b t hd').1 hb]
    exact ⟨{ h with },
      { state := rfl, sum := fun _ => rfl, type := fun _ h => absurd rfl h
        len := by simp, cnt := nofun, payload := nofun, whole := nofun }⟩
  case inr.inl =>
    rw [(stepInAwaitingSync b t hd').2 hb]
    exact ⟨{ h with events := congrArg (· ++ [Event.desync]) h.events }, hdec⟩
  case inr.inr.inl =>
    rw [stepByte_type hd']
    exact ⟨{ h with },
      { state := rfl, sum := fun _ => congrArg (addSum · b) (hdec.sum (by simp [hd])), type := fun _ _ => rfl
        len := by simp [stepType], cnt := nofun, payload := nofun, whole := nofun }⟩
  case inr.inr.inr.inl =>
    rw [stepByte_rejectLength hd' (h.cfg ▸ hb)]
    exact ⟨{ h with events := congrArg (· ++ [Event.lengthOverflow]) h.events },
      Decoder.liveEq_of_awaitingSync rfl rfl⟩
  case inr.inr.inr.inr.inl =>
    rw [stepByte_takeLength hd' (h.cfg ▸ hb)]
    exact ⟨{ h with }, hdec.takeLength hd b⟩
  case inr.inr.inr.inr.inr.inl =>
    rw [stepByte_payload hd']
    exact ⟨{ h with }, hdec.storePayload hs.dec (h.cfg ▸ ht.dec) hd b⟩
  case inr.inr.inr.inr.inr.inr.inl =>
    rw [stepByte_accept hd' (hb.trans (hdec.sum (by simp [hd])))]
    refine ⟨{ h with slot := ?_, events := ?_ }, Decoder.liveEq_of_awaitingSync rfl rfl⟩
    · rw [acceptFrame_slot, acceptFrame_slot, ← hdec.command hd]
      exact hQ.latch _ (hs.dec.command_payload_length hd) h.slot
    · rw [acceptFrame_events, acceptFrame_events, h.events, hdec.command hd]
  case inr.inr.inr.inr.inr.inr.inr =>
    rw [stepByte_reject hd' (hdec.sum (by simp [hd]) ▸ hb)]
    exact ⟨{ h with events := congrArg (· ++ [Event.checksumMismatch]) h.events },
      Decoder.liveEq_of_awaitingSync rfl rfl⟩

theorem AgreeOutside.ingestBytes {s t : State} (hs : s.Inv) (ht : t.Inv) (h : AgreeOutside Q s t)
    (hdec : s.dec.LiveEq t.dec) (data : List Byte) :
    AgreeOutside Q (ingestBytes data s) (ingestBytes data t) ∧
      (ingestBytes data s).dec.LiveEq (ingestBytes data t).dec := by
  induction data generalizing s t with
  | nil => exact ⟨h, hdec⟩
  | cons b bs ih =>
    obtain ⟨h', hdec'⟩ := h.stepByte hQ hs ht hdec b
    exact ih (stepByte_inv b s hs) (stepByte_inv b t ht) h' hdec'

omit hQ in
theorem AgreeOutside.perCallReset {s t : State} (h : AgreeOutside Q s t) :
    AgreeOutside Q (perCallReset s) (perCallReset t) := by
  rw [perCallReset_eq s, perCallReset_eq t]
  exact { h with }

/-- A POLL takes the same Command from both blocks, or reports none in both (R85). -/
theorem AgreeOutside.exec_poll {s t s' : State} (h : AgreeOutside Q s t) (hexec : exec .poll s = .next s') :
    ∃ t', exec .poll t = .next t' ∧ AgreeOutside Q s' t' ∧ s'.dec = s.dec ∧ t'.dec = t.dec := by
  have hready := hQ.ready h.slot
  obtain ⟨hu, e⟩ | ⟨hu, e⟩ := exec_poll_cases s <;> cases e.symm.trans hexec <;>
    obtain ⟨hv, e'⟩ | ⟨hv, e'⟩ := exec_poll_cases t
  case inl.refl.inl =>
    rw [Slot.ready_of_unread hu, Slot.ready_of_unread hv, Option.some_inj] at hready
    refine ⟨_, e', ?_, rfl, rfl⟩
    rw [← hready]
    exact { h with
      slot := hQ.taken h.slot
      results := congrArg (· ++ [pollRecord (some s.slot.command)]) h.results
      events := congrArg (· ++ [Event.taken s.slot.command]) h.events }
  case inr.refl.inr => exact ⟨_, e', { h with results := congrArg (· ++ [pollRecord none]) h.results }, rfl, rfl⟩
  case inl.refl.inr => simp [Slot.ready_of_unread hu, Slot.ready_of_taken hv] at hready
  case inr.refl.inl => simp [Slot.ready_of_taken hu, Slot.ready_of_unread hv] at hready

/-- Every operation answers alike, if the decoders agree on the live registers when an INGEST meets them. -/
theorem AgreeOutside.exec {s t : State} (hs : s.Inv) (ht : t.Inv) (h : AgreeOutside Q s t)
    (hreset : (Machine.perCallReset s).dec.LiveEq (Machine.perCallReset t).dec) {i : Instr} {s' : State}
    (hexec : exec i s = .next s') :
    ∃ t', exec i t = .next t' ∧ AgreeOutside Q s' t' ∧ (s.dec.LiveEq t.dec → s'.dec.LiveEq t'.dec) := by
  cases i with
  | ingest data =>
    cases hexec
    obtain ⟨h', hdec'⟩ := h.perCallReset.ingestBytes hQ hs.perCallReset ht.perCallReset hreset data
    exact ⟨_, exec_ingest data t, h', fun _ => hdec'⟩
  | poll =>
    obtain ⟨t', hpoll, h', hdecs, hdect⟩ := h.exec_poll hQ hexec
    exact ⟨t', hpoll, h', fun hdec => by rwa [hdecs, hdect]⟩
  | encConfigResponse index v =>
    cases hexec
    exact ⟨_, rfl, { h with txlog := congrArg (· ++ [txFrame (configResponseBody index v)]) h.txlog }, id⟩
  | encCurrentSet v =>
    cases hexec
    refine ⟨_, rfl, { h with txlog := ?_ }, id⟩
    rw [transmit_txlog, transmit_txlog, h.txlog, h.cfg]
  | resetDecoder =>
    cases hexec
    exact ⟨_, rfl, { h with }, fun _ => Decoder.liveEq_of_awaitingSync rfl rfl⟩

end

end Sys2Proof.Machine
end

section
namespace Sys2Proof.Machine

/-! Noninterference (spec/10_state.md R31, R32, R34, spec/40_decoder.md R72). -/

/-- Blocks just constructed differ in nothing live, whatever their unspecified registers hold (R32). -/
theorem State.IsReset.liveEq {c : Config} {s t : State} (hs : s.IsReset c) (ht : t.IsReset c)
    (hr : s.requests = t.requests) : s.LiveEq t where
  cfg := hs.cfg.trans ht.cfg.symm
  dec := Decoder.liveEq_of_awaitingSync hs.decState ht.decState
  ready := (Slot.ready_of_taken hs.unread).trans (Slot.ready_of_taken ht.unread).symm
  txlog := hs.txlog.trans ht.txlog.symm
  results := hs.results.trans ht.results.symm
  requests := hr
  events := hs.events.trans ht.events.symm

/-- Two blocks of the invariant that agree on what is live: the slots through the Command ready. -/
def InvLiveEq (s t : State) : Prop :=
  s.Inv ∧ t.Inv ∧ AgreeOutside (fun x y => x.ready = y.ready) s t ∧ s.dec.LiveEq t.dec

theorem step_invLiveEq {s t s' : State} (h : InvLiveEq s t) (hstep : step s = .next s') :
    ∃ t', step t = .next t' ∧ InvLiveEq s' t' := by
  refine step_simulation (R := InvLiveEq) (fun _ _ ⟨_, _, h, _⟩ => h.cfg) (fun _ _ ⟨_, _, h, _⟩ => h.requests)
    (fun _ _ _ ⟨hs, ht, h, hdec⟩ => ⟨⟨hs.dec, hs.slot⟩, ⟨ht.dec, ht.slot⟩, { h with requests := rfl }, hdec⟩)
    (fun i s t s' ⟨hs, ht, h, hdec⟩ hexec => ?_) h hstep
  obtain ⟨t', hexec', h', hdec'⟩ := h.exec slotSimulation_ready hs ht (hdec.perCallReset h.cfg) hexec
  exact ⟨t', hexec', exec_keeps_inv hs hexec, exec_keeps_inv ht hexec', h', hdec' hdec⟩

/-- Settles O57, by simulation; after reset no decoder register is live and no Command is ready. -/
theorem unspecifiedRegistersNeverMatter : Obligations.UnspecifiedRegistersNeverMatter := by
  refine ⟨fun k s t s' hs ht h hrun => ?_, fun c s t hs ht hr => hs.liveEq ht hr⟩
  obtain ⟨t', hrun', -, -, h', hdec'⟩ := SafeRun.simulation (fun _ _ _ => step_invLiveEq)
    ⟨hs, ht, ⟨h.cfg, h.ready, h.txlog, h.results, h.requests, h.events⟩, h.dec⟩ hrun
  exact ⟨t', hrun', h'.cfg, hdec', h'.slot, h'.txlog, h'.results, h'.requests, h'.events⟩

/-- Two blocks of the invariant under the per-call reset that agree outside the decoder. -/
def InvResetsAgreeOutside (s t : State) : Prop :=
  s.Inv ∧ t.Inv ∧ AgreeOutside Eq s t ∧ s.cfg.resetOnDelivery = true

/-- The per-call reset of an INGEST, the one operation that reads decoder registers, leaves none live (R31). -/
theorem step_invResetsAgreeOutside {s t s' : State} (h : InvResetsAgreeOutside s t) (hstep : step s = .next s') :
    ∃ t', step t = .next t' ∧ InvResetsAgreeOutside s' t' := by
  refine step_simulation (R := InvResetsAgreeOutside) (fun _ _ ⟨_, _, h, _⟩ => h.cfg)
    (fun _ _ ⟨_, _, h, _⟩ => h.requests)
    (fun _ _ _ ⟨hs, ht, h, hr⟩ => ⟨⟨hs.dec, hs.slot⟩, ⟨ht.dec, ht.slot⟩, { h with requests := rfl }, hr⟩)
    (fun i s t s' ⟨hs, ht, h, hr⟩ hexec => ?_) h hstep
  have hreset : (perCallReset s).dec.LiveEq (perCallReset t).dec :=
    Decoder.liveEq_of_awaitingSync (perCallReset_inSync (.inl hr)) (perCallReset_inSync (.inl (h.cfg ▸ hr)))
  obtain ⟨t', hexec', h', -⟩ := h.exec slotSimulation_eq hs ht hreset hexec
  exact ⟨t', hexec', exec_keeps_inv hs hexec, exec_keeps_inv ht hexec', h', exec_keeps_cfg hexec ▸ hr⟩

/-- Settles O58, by simulation. -/
theorem decoderCarriesNothingAcrossDeliveries : Obligations.DecoderCarriesNothingAcrossDeliveries := by
  intro k s t s' hr hs ht h hrun
  obtain ⟨t', hrun', -, -, h', -⟩ := SafeRun.simulation (fun _ _ _ => step_invResetsAgreeOutside)
    ⟨hs, ht, ⟨h.cfg, h.slot, h.txlog, h.results, h.requests, h.events⟩, hr⟩ hrun
  exact ⟨t', hrun', h'.cfg, h'.slot, h'.txlog, h'.results, h'.requests, h'.events⟩

end Sys2Proof.Machine
end
